-- ==== Sys2Proof/Word.lean ====
section
/-! DEFINITION. Word types of the block: the unsigned widths of spec/00_scope.md R15 and R16. -/

namespace Sys2Proof

/-- `u8` (R15): one byte of a frame or of a response, and the width of TCON and STATUS (R29). -/
abbrev Byte := BitVec 8

/-- `u4` (R15): a device register address (R41). -/
abbrev U4 := BitVec 4

/-- `u9` (R15): a frame's data value and a decoded wiper position (R16). -/
abbrev U9 := BitVec 9

end Sys2Proof
end

