-- ==== Sys2Proof/Config.lean ====
section
/-! DEFINITION. What an instance fixes at construction (R10, R11, R21) and the free values: constants
with no body, so that nothing can be proved of what the spec leaves open. -/

namespace Sys2Proof

/-- `POT_INDEX` (R10): which of the chip's two potentiometers an instance drives. -/
inductive PotIndex where
  | pot0
  | pot1
deriving DecidableEq, Repr

/-- `RESOLUTION` (R10). -/
inductive Resolution where
  | bits7
  | bits8
deriving DecidableEq, Repr

/-- `WIPER_MODE` (R10). -/
inductive WiperMode where
  | rheostat
  | potentiometer
deriving DecidableEq, Repr

/-- The configuration of one instance, fixed at construction (R10, R21), with the counter-width parameter
`SEL_COUNTER_WIDTH` of R11 (log 13): `none` is the unbounded counter the spec's model takes, `some w` a hardware build of
`w` bits. -/
structure Cfg where
  potIndex   : PotIndex
  resolution : Resolution
  wiperMode  : WiperMode
  selWidth   : Option Nat
deriving DecidableEq, Repr

/-- A nesting count the counter can hold (R11): any at an unbounded counter, fewer than `2 ^ w` at `w` bits. -/
def Cfg.fits (c : Cfg) (n : Nat) : Bool :=
  match c.selWidth with
  | none => true
  | some w => decide (n < 2 ^ w)

/-- "A hardware build needs at least 2 bits" (R11). -/
def Cfg.wf (c : Cfg) : Bool :=
  match c.selWidth with
  | none => true
  | some w => decide (2 ≤ w)

/-- What the transport answers to one exchange (R14): a failure, or a received byte sequence. -/
inductive Answer where
  | failed
  | received (rx : List Byte)
deriving DecidableEq, Repr, Inhabited

/-- FREE VALUE (log 3). The real device's and transport's answer to exchange number `n`, "an oracle answer under no
constraint from the block" (R131, R14): a failure, or bytes of any value and any length. -/
opaque Config.oracleAnswer : Nat → Answer

/-- FREE VALUE (log 4). The value a device register holds after a failed exchange addressed it: "any value; this is
a draw" (R124). -/
opaque Config.drawnRegister : Nat → U9

/-- FREE VALUE (log 5). `CS_ACTIVE_LEVEL`, OPEN in R11: the electrical level of an asserted chip-select line. -/
opaque Config.csActiveLevel : Bool

/-- FREE VALUE (log 5). `WIRE_BIT_ORDER`, OPEN in R11 and R48: whether the transport shifts bit 7 of a byte first. -/
opaque Config.wireMsbFirst : Bool

end Sys2Proof
end

