-- ==== Sys2Proof/Syntax.lean ====
section
/-! DEFINITION. The instructions: one constructor per row of spec/opcode_table.json. Three kinds (spec/30_encoding.md):
command frames on the wire (`CTRL`, `CTRL+DATA`), the codec's pure functions (`CODEC`), the host operations (`OP`). -/

namespace Sys2Proof

/-- The four command codes of the field `C` (R64); none is reserved. -/
inductive Command where
  | write
  | increment
  | decrement
  | read
deriving DecidableEq, Repr

/-- One row of spec/opcode_table.json each. -/
inductive Instr where
  -- the generic frames (R83), any address; `data` is `D8` followed by the data byte as the frame carries them
  /-- `WRITE`: `AAAA001D dddddddd`. -/
  | write (a : U4) (data : U9)
  /-- `INCR`: `AAAA0110`. -/
  | incr (a : U4)
  /-- `DECR`: `AAAA1010`. -/
  | decr (a : U4)
  /-- `READ`: `AAAA111D dddddddd`. -/
  | read (a : U4) (data : U9)
  -- the frames the block's operations emit (R71)
  /-- `WRITE WIPER0, v`, `v` in 0..256 (R102). -/
  | writeWiper0 (v : U9)
  /-- `WRITE WIPER1, v`, `v` in 0..256 (R102). -/
  | writeWiper1 (v : U9)
  /-- `INCR WIPER0`: `[0x06]`. -/
  | incrWiper0
  /-- `INCR WIPER1`: `[0x16]`. -/
  | incrWiper1
  /-- `DECR WIPER0`: `[0x0A]`. -/
  | decrWiper0
  /-- `DECR WIPER1`: `[0x1A]`. -/
  | decrWiper1
  /-- `READ WIPER0`: `[0x0F, 0xFF]`. -/
  | readWiper0
  /-- `READ WIPER1`: `[0x1F, 0xFF]`. -/
  | readWiper1
  /-- `READ TCON`: `[0x4F, 0xFF]`. -/
  | readTcon
  /-- `WRITE TCON, n`: `[0x42 | D8, n]`, `D8 = 1` iff `n` is 0x00 or 0xFF (R71, conflict C1). -/
  | writeTcon (n : Byte)
  /-- `READ STATUS`: `[0x5F, 0xFF]`. -/
  | readStatus
  -- the Frame Codec (R82)
  /-- `BuildFrame(address, command, data)` (R83). -/
  | buildFrame (address : U4) (command : Command) (data : Option U9)
  /-- `DecodeWiper([r0, r1])` (R84). -/
  | decodeWiper (r0 r1 : Byte)
  /-- `DecodeRegByte([r0, r1])` (R85). -/
  | decodeRegByte (r0 r1 : Byte)
  -- the host operations (R12)
  /-- `max_value` (R98). -/
  | maxValue
  /-- `increment` (R100). -/
  | increment
  /-- `decrement` (R101). -/
  | decrement
  /-- `set value` (R102). The host may present any integer; a negative one is refused `NegativeValue` (R126). -/
  | set (value : Int)
  /-- `get` (R103). -/
  | get
  /-- `set_terminal_a_status b` (R108). -/
  | setTerminalAStatus (flag : Bool)
  /-- `set_terminal_b_status b` (R109). -/
  | setTerminalBStatus (flag : Bool)
  /-- `set_wiper_status b` (R110). -/
  | setWiperStatus (flag : Bool)
  /-- `get_terminal_a_status` (R111). -/
  | getTerminalAStatus
  /-- `get_terminal_b_status` (R112). -/
  | getTerminalBStatus
  /-- `get_wiper_status` (R113). -/
  | getWiperStatus
  /-- `set_shutdown_status s` (R114); `true` means "shut down". -/
  | setShutdownStatus (flag : Bool)
  /-- `get_shutdown_status` (R115). -/
  | getShutdownStatus
  /-- `get_hardware_shutdown_status` (R116). -/
  | getHardwareShutdownStatus
  /-- `select` (R96). -/
  | select
  /-- `deselect` (R97). -/
  | deselect
deriving DecidableEq, Repr

/-- The instructions that act on the chip-select line or the bus: every frame, and every host operation but
`max_value` (R89). A negative `set` never starts (R126), and the codec "never touches the bus" (R82). -/
def Instr.usesBus : Instr → Bool
  | .write _ _ => true
  | .incr _ => true
  | .decr _ => true
  | .read _ _ => true
  | .writeWiper0 _ => true
  | .writeWiper1 _ => true
  | .incrWiper0 => true
  | .incrWiper1 => true
  | .decrWiper0 => true
  | .decrWiper1 => true
  | .readWiper0 => true
  | .readWiper1 => true
  | .readTcon => true
  | .writeTcon _ => true
  | .readStatus => true
  | .buildFrame _ _ _ => false
  | .decodeWiper _ _ => false
  | .decodeRegByte _ _ => false
  | .maxValue => false
  | .increment => true
  | .decrement => true
  | .set v => decide (0 ≤ v)
  | .get => true
  | .setTerminalAStatus _ => true
  | .setTerminalBStatus _ => true
  | .setWiperStatus _ => true
  | .getTerminalAStatus => true
  | .getTerminalBStatus => true
  | .getWiperStatus => true
  | .setShutdownStatus _ => true
  | .getShutdownStatus => true
  | .getHardwareShutdownStatus => true
  | .select => true
  | .deselect => true

/-- The instructions that exchange frames: those that act on the bus, but for `select` and `deselect` (R78). -/
def Instr.exchanges (i : Instr) : Bool := i.usesBus && i != .select && i != .deselect

end Sys2Proof
end

