-- ==== Sys2Proof/WellFormed.lean ====
section
/-! DEFINITION. Which instructions are well formed: a generic frame is one that no emitted-frame row of R71 names (those
have constructors of their own), an emitted wiper write carries 0..256, a `set` request is not negative. -/

namespace Sys2Proof

/-- The addresses of WIPER0 and WIPER1 (R62). -/
def isWiperAddr (a : U4) : Bool := a == 0x0#4 || a == 0x1#4

/-- The data value is one of a `WRITE WIPERp, v` row: `v` in 0..256 (R68, R102). -/
def isWiperData (data : U9) : Bool := decide (data.toNat ≤ 256)

/-- The data value, as the frame carries it, is one of a `WRITE TCON, n` row: `D8 = 1` exactly when `n` is 0x00 or
0xFF (R68, R71, conflict C1). -/
def isTconData (data : U9) : Bool :=
  data[8] == (data.setWidth 8 == 0x00#8 || data.setWidth 8 == 0xFF#8)

/-- The address of a `READ` row of R71: WIPER0, WIPER1, TCON, STATUS (R62). -/
def isReadAddr (a : U4) : Bool := isWiperAddr a || a == 0x4#4 || a == 0x5#4

/-- Well-formedness. -/
def Instr.wf : Instr → Bool
  | .write a data => !(isWiperAddr a && isWiperData data) && !(a == 0x4#4 && isTconData data)
  | .incr a => !isWiperAddr a
  | .decr a => !isWiperAddr a
  | .read a data => !(isReadAddr a && data == 0x1FF#9)
  | .writeWiper0 v => isWiperData v
  | .writeWiper1 v => isWiperData v
  | .incrWiper0 => true
  | .incrWiper1 => true
  | .decrWiper0 => true
  | .decrWiper1 => true
  | .readWiper0 => true
  | .readWiper1 => true
  | .readTcon => true
  | .writeTcon _ => true
  | .readStatus => true
  | .buildFrame _ _ _ => true
  | .decodeWiper _ _ => true
  | .decodeRegByte _ _ => true
  | .maxValue => true
  | .increment => true
  | .decrement => true
  | .set v => decide (0 ≤ v)
  | .get => true
  | .setTerminalAStatus _ => true
  | .setTerminalBStatus _ => true
  | .setWiperStatus _ => true
  | .getTerminalAStatus => true
  | .getTerminalBStatus => true
  | .getWiperStatus => true
  | .setShutdownStatus _ => true
  | .getShutdownStatus => true
  | .getHardwareShutdownStatus => true
  | .select => true
  | .deselect => true

end Sys2Proof
end

