-- ==== Sys2Proof/Decode.lean ====
section
/-! DEFINITION. The frame decoder, total on any byte sequence and rejecting by name, and the encoder. Both follow the
tables of spec/30_encoding.md: the layout of R60, the address codes of R62, the command codes of R64, the lengths of R72.
The `CODEC` and `OP` rows have no encoding in the table, so no bytes decode to them and `encode` answers none. -/

namespace Sys2Proof

/-- Why bytes are no frame of the opcode table. -/
inductive DecodeError where
  /-- No byte at all. -/
  | empty
  /-- The control byte has `R = 0`: "any control byte with R = 0" (R74 (a)). -/
  | reservedBitClear
  /-- An INCREMENT or DECREMENT control byte with `D8 = 1` (R74 (b)). -/
  | ctrlFrameWithD8
  /-- A WRITE or READ control byte with no data byte after it (R59, R72). -/
  | missingDataByte
  /-- More bytes than the frame's length by R72. -/
  | trailingBytes
deriving DecidableEq, Repr

/-- The command codes (R64). -/
def Command.code : Command → BitVec 2
  | .write => 0b00#2
  | .increment => 0b01#2
  | .decrement => 0b10#2
  | .read => 0b11#2

/-- The command of a code (R64): total, since no code is reserved. -/
def Command.ofCode (c : BitVec 2) : Command :=
  if c = 0b00#2 then .write
  else if c = 0b01#2 then .increment
  else if c = 0b10#2 then .decrement
  else .read

/-- The control byte `A3 A2 A1 A0 C1 C0 R D8` with `R = 1` (R60, R65). -/
def ctrlByte (a : U4) (c : Command) (d8 : Bool) : Byte :=
  a ++ c.code ++ 1#1 ++ BitVec.ofBool d8

/-- `address = b[7:4]` (R73). -/
def ctrlAddress (b : Byte) : U4 := b.extractLsb' 4 4

/-- `command = b[3:2]` (R73). -/
def ctrlCommand (b : Byte) : Command := Command.ofCode (b.extractLsb' 2 2)

/-- `reserved = b[1]` (R73). -/
def ctrlReserved (b : Byte) : Bool := b[1]

/-- `d8 = b[0]` (R73). -/
def ctrlD8 (b : Byte) : Bool := b[0]

/-- A 2-byte frame's data value `d8 << 8 | data_byte` (R73). -/
def dataValue (d8 : Bool) (d : Byte) : U9 := BitVec.ofBool d8 ++ d

/-- The 2-byte frame whose `D8` and data byte carry the nine bits of `data` as they stand. -/
def dataFrame (a : U4) (c : Command) (data : U9) : List Byte :=
  [ctrlByte a c (data[8]), data.setWidth 8]

/-- The row of a WRITE frame: the emitted rows of R71 where they match, else the generic `WRITE` (log 14). -/
def writeRow (a : U4) (data : U9) : Instr :=
  if a = 0x0#4 ∧ isWiperData data then .writeWiper0 data
  else if a = 0x1#4 ∧ isWiperData data then .writeWiper1 data
  else if a = 0x4#4 ∧ isTconData data then .writeTcon (data.setWidth 8)
  else .write a data

/-- The row of an INCREMENT frame. -/
def incrRow (a : U4) : Instr :=
  if a = 0x0#4 then .incrWiper0 else if a = 0x1#4 then .incrWiper1 else .incr a

/-- The row of a DECREMENT frame. -/
def decrRow (a : U4) : Instr :=
  if a = 0x0#4 then .decrWiper0 else if a = 0x1#4 then .decrWiper1 else .decr a

/-- The row of a READ frame: the emitted rows carry the all-data-bits sentinel 0x1FF (R68, R71). -/
def readRow (a : U4) (data : U9) : Instr :=
  if a = 0x0#4 ∧ data = 0x1FF#9 then .readWiper0
  else if a = 0x1#4 ∧ data = 0x1FF#9 then .readWiper1
  else if a = 0x4#4 ∧ data = 0x1FF#9 then .readTcon
  else if a = 0x5#4 ∧ data = 0x1FF#9 then .readStatus
  else .read a data

/-- The data byte of a 2-byte frame: the row it makes and the bytes after it. -/
def takeDataByte (d8 : Bool) (row : U9 → Instr) : List Byte → Except DecodeError (Instr × List Byte)
  | [] => .error .missingDataByte
  | d :: rest => .ok (row (dataValue d8 d), rest)

/-- A frame with no data byte: its `D8` is 0 (R66). -/
def noDataByte (d8 : Bool) (row : Instr) (rest : List Byte) : Except DecodeError (Instr × List Byte) :=
  if d8 then .error .ctrlFrameWithD8 else .ok (row, rest)

/-- The first frame of a byte stream and the bytes after it; the length comes from `C` alone (R72). -/
def decode : List Byte → Except DecodeError (Instr × List Byte)
  | [] => .error .empty
  | b :: rest =>
    if ctrlReserved b then
      match ctrlCommand b with
      | .write => takeDataByte (ctrlD8 b) (writeRow (ctrlAddress b)) rest
      | .increment => noDataByte (ctrlD8 b) (incrRow (ctrlAddress b)) rest
      | .decrement => noDataByte (ctrlD8 b) (decrRow (ctrlAddress b)) rest
      | .read => takeDataByte (ctrlD8 b) (readRow (ctrlAddress b)) rest
    else .error .reservedBitClear

/-- Exactly one frame and nothing after it. -/
def decodeFrame (bytes : List Byte) : Except DecodeError Instr :=
  match decode bytes with
  | .error e => .error e
  | .ok (i, []) => .ok i
  | .ok (_, _ :: _) => .error .trailingBytes

/-- The `WRITE` data value of an emitted TCON write of byte `n`, as the frame carries it (R71, conflict C1). -/
def tconWireData (n : Byte) : U9 := dataValue (n == 0x00#8 || n == 0xFF#8) n

/-- The bytes of a frame row, written from the layout of R60 and the tables of R62, R64 and R71; the rows with no
encoding in the opcode table have none. -/
def encode : Instr → Option (List Byte)
  | .write a data => some (dataFrame a .write data)
  | .incr a => some [ctrlByte a .increment false]
  | .decr a => some [ctrlByte a .decrement false]
  | .read a data => some (dataFrame a .read data)
  | .writeWiper0 v => some (dataFrame 0x0#4 .write v)
  | .writeWiper1 v => some (dataFrame 0x1#4 .write v)
  | .incrWiper0 => some [ctrlByte 0x0#4 .increment false]
  | .incrWiper1 => some [ctrlByte 0x1#4 .increment false]
  | .decrWiper0 => some [ctrlByte 0x0#4 .decrement false]
  | .decrWiper1 => some [ctrlByte 0x1#4 .decrement false]
  | .readWiper0 => some (dataFrame 0x0#4 .read 0x1FF#9)
  | .readWiper1 => some (dataFrame 0x1#4 .read 0x1FF#9)
  | .readTcon => some (dataFrame 0x4#4 .read 0x1FF#9)
  | .writeTcon n => some (dataFrame 0x4#4 .write (tconWireData n))
  | .readStatus => some (dataFrame 0x5#4 .read 0x1FF#9)
  | .buildFrame _ _ _ => none
  | .decodeWiper _ _ => none
  | .decodeRegByte _ _ => none
  | .maxValue => none
  | .increment => none
  | .decrement => none
  | .set _ => none
  | .get => none
  | .setTerminalAStatus _ => none
  | .setTerminalBStatus _ => none
  | .setWiperStatus _ => none
  | .getTerminalAStatus => none
  | .getTerminalBStatus => none
  | .getWiperStatus => none
  | .setShutdownStatus _ => none
  | .getShutdownStatus => none
  | .getHardwareShutdownStatus => none
  | .select => none
  | .deselect => none

/-- The length of the frame a control byte begins (R72). -/
def frameLength (b : Byte) : Nat :=
  match ctrlCommand b with
  | .write => 2
  | .increment => 1
  | .decrement => 1
  | .read => 2

/-- The bytes of a word numbered as spec/opcode_table.json numbers it: byte 0, the control byte, is bits 7..0
(R46: it comes first), byte 1 is bits 15..8; the bits from `nbits` up are 0. -/
def tableWordBytes (nbits w : Nat) : List Byte :=
  [BitVec.ofNat 8 (w % 2 ^ nbits), BitVec.ofNat 8 (w % 2 ^ nbits / 256)]

/-- The frame that begins at a word's first byte, no longer than R72 says. -/
def tableWordFrame (nbits w : Nat) : List Byte :=
  (tableWordBytes nbits w).take (frameLength (BitVec.ofNat 8 (w % 2 ^ nbits)))

/-- What the decoder reads from a word of the opcode table. -/
def decodeTableWord (nbits w : Nat) : Option Instr :=
  match decode (tableWordBytes nbits w) with
  | .ok (i, _) => some i
  | .error _ => none

end Sys2Proof
end

