-- ==== Sys2Proof/Machine/State.lean ====
section
/-! DEFINITION. The machine's state as plain data: the block's own state (R20), the second instance that may share the chip
(R37), the link to the remote device (R9 (c), (d)), the record of events and outcomes (R13, R122), the pending requests
(R12); the reasons a step can stop; and the state after reset (R38, R138). -/

namespace Sys2Proof.Machine

/-- Operation phase (R24). -/
inductive Phase where
  /-- No operation is in progress. -/
  | idle
  /-- `Busy(op, k)`: `op` runs; `k` counts the primitives (`Select`, exchange, `Deselect`) it has completed
  (log 8). -/
  | busy (op : Instr) (k : Nat)
deriving DecidableEq, Repr

/-- The whole state of one block instance (R20). -/
structure Block where
  /-- Configuration (R21). -/
  cfg : Cfg
  /-- The selection nesting counter `sel_count` (R22). -/
  selCount : Nat
  /-- The chip-select output `cs_asserted` (R23). -/
  csAsserted : Bool
  /-- Operation phase (R24). -/
  phase : Phase
  /-- The fault mark (R25). -/
  faulted : Bool
deriving DecidableEq, Repr

/-- The reference device (R130; widths: log 15). -/
structure RefDevice where
  wiper0 : U9
  wiper1 : U9
  tcon : Byte
  status : Byte
  /-- `DEVICE_MAX[0]` (R11, R130). -/
  dmax0 : U9
  /-- `DEVICE_MAX[1]` (R11, R130). -/
  dmax1 : U9
deriving DecidableEq, Repr

/-- The transport and the device at its far end (R9). -/
inductive Link where
  /-- The real device (R131): the environment's answers to the next exchanges, in order, and after them free ones. -/
  | real (answers : List Answer)
  /-- The reference device (R130), and for the next exchanges, in order, whether the transport fails them; after
  them none fails. -/
  | reference (dev : RefDevice) (fails : List Bool)
deriving DecidableEq, Repr

/-- The events of the transport interface (R13). -/
inductive Event where
  | csAssert
  | csDeassert
  | exchange (tx rx : List Byte)
  | exchangeFail (tx : List Byte)
deriving DecidableEq, Repr

/-- A result value (R12): a `Nat`, a `Bool` or `Unit`; the codec's `BuildFrame`, and a frame whose response no rule
decodes, deliver bytes (log 7). -/
inductive Result where
  | unit
  | nat (n : Nat)
  | bool (b : Bool)
  | bytes (l : List Byte)
deriving DecidableEq, Repr

/-- The fault reasons of R122. The spec says what a fault does (R125: `faulted` is set, no further event, no
`Deselect`), so each is TAKEN as a next state by `State.enterFault`, which records the name in a verdict; no step
answers `Host.Outcome.fault`. Each one is the spec's own decision where the source is silent, and safe: the instance
accepts nothing afterwards. -/
inductive Fault where
  /-- Raised by `Deselect` at `sel_count = 0` (R91), reached by an unmatched host `deselect`. Safe. -/
  | deselectUnderflow
  /-- Raised by the checked exchange at `sel_count = 0` (R92); no instruction reaches it. Safe. -/
  | exchangeWithoutSelect
  /-- Raised by the checked exchange when the answer's length is not the frame's (R92). Safe. -/
  | rxLengthMismatch
  /-- Raised by `Select` past a finite `SEL_COUNTER_WIDTH` (R90). Safe. -/
  | selectOverflow
deriving DecidableEq, Repr

/-- Why a step has no meaning: the run stops. -/
inductive Refusal where
  /-- Raised by `exec` for an instruction with no meaning yet. Safe. -/
  | notModelled (mnemonic : String)
  /-- Raised by the fetch when the bytes presented are no frame of the opcode table (R74; log 18). Safe. -/
  | notAFrame (e : DecodeError)
  /-- Raised by a frame instruction when the reference device is attached and does not admit the frame: "A device
  model refuses (a) to (d)" (R74). Safe. -/
  | deviceRefusesFrame
  /-- Raised by the fetch when an instance that holds a selection would exchange while the shared line stands released,
the other instance's `Deselect` having released it: an overlap of two instances' critical sections, a host duty (R146,
I17), in which the transport would be invoked without an asserted line (R13; log 11). Safe. -/
  | lineReleased
  /-- Raised by the fetch when a request is addressed to a second instance and there is none (log 18). Safe. -/
  | noSecondSlot
deriving DecidableEq, Repr

/-- The request refusals of R126: the request is not admitted and the machine goes on. -/
inductive Denial where
  /-- `NegativeValue`: a `set` request with a negative argument. -/
  | negativeValue
  /-- `NotReady`: a request while `phase` is not `Idle` or `faulted` is true. -/
  | notReady
deriving DecidableEq, Repr

/-- How one request ended (R122). -/
inductive Verdict where
  /-- `Ok(result)`. -/
  | ok (r : Result)
  /-- `Err(TransportFailure)`. -/
  | transportFailure
  /-- `fault <Name>`. -/
  | fault (f : Fault)
  /-- `refuse <Name>`. -/
  | denied (d : Denial)
deriving DecidableEq, Repr

/-- The outcome codes of R122; the model faults and refusals have none. -/
def Verdict.code : Verdict → Option Nat
  | .ok _ => some 0
  | .transportFailure => some 1
  | .fault _ => none
  | .denied _ => none

/-- Which instance of the chip a request is for (R37). -/
inductive Slot where
  | first
  | second
deriving DecidableEq, Repr

/-- What a request asks for: a row of the opcode table by name (host operations and codec functions have no
encoding), or a frame given by its bytes. -/
inductive Order where
  | call (i : Instr)
  | frame (bytes : List Byte)
deriving DecidableEq, Repr

/-- One pending request. -/
structure Request where
  slot : Slot
  order : Order
deriving DecidableEq, Repr

structure State where
  /-- The instance that instructions act on (R20). -/
  blk : Block
  /-- The other instance on the same chip, if there is one (R37). -/
  second : Option Block
  /-- The transport and the remote device. -/
  link : Link
  /-- The model's own: how many free values have been drawn (log 3, log 4). -/
  draws : Nat
  /-- The event history (R13, R122, R137), oldest first. -/
  events : List Event
  /-- The model's own record of how each request ended (R12, R122), oldest first. -/
  verdicts : List Verdict
  /-- The model's own: the requests not yet taken (R12), next first. -/
  inbox : List Request
deriving DecidableEq, Repr

/-- A freshly constructed instance (R38, R138). -/
def Block.construct (c : Cfg) : Block :=
  { cfg := c, selCount := 0, csAsserted := false, phase := .idle, faulted := false }

/-- One instance constructed with configuration `c`, the real device behind an unconstrained transport, no event sent
(R138 to R140). -/
def State.construct (c : Cfg) : State :=
  { blk := Block.construct c, second := none, link := .real [], draws := 0, events := [], verdicts := [], inbox := [] }

/-- Two instances on one chip (R37). -/
def State.constructPair (c d : Cfg) : State :=
  { State.construct c with second := some (Block.construct d) }

/-- The constructor's arguments at `State.reset` (log 1): pot 0, 8-bit, potentiometer mode, unbounded counter. -/
def Cfg.atReset : Cfg :=
  { potIndex := .pot0, resolution := .bits8, wiperMode := .potentiometer, selWidth := none }

/-- The machine right after reset, which is construction (R138). -/
def State.reset : State := State.construct Cfg.atReset

end Sys2Proof.Machine
end

