-- ==== Sys2Proof/Machine/Operands.lean ====
section
/-! DEFINITION. Operand forms: the codec's pure functions (spec/40_frame_codec.md), the addresses and data values the
operations put into frames (R62, R63, R68), the `set` clamp (R102). -/

namespace Sys2Proof.Machine

/-- The control byte of `BuildFrame`, with `R = 1` and `D8 = 0`: the first line of R83's pseudocode. -/
def controlBase (address : U4) (command : Command) : Byte :=
  (address.setWidth 8 <<< 4) ||| (command.code.setWidth 8 <<< 2) ||| 0x02#8

/-- `BuildFrame(address, command, data)` (R83). -/
def buildFrame (address : U4) (command : Command) (data : Option U9) : List Byte :=
  match data with
  | none => [controlBase address command]
  | some v =>
    if v = 0x100#9 ∨ v = 0x1FF#9 then [controlBase address command ||| 0x01#8, v.setWidth 8]
    else [controlBase address command, v.setWidth 8]

/-- `DecodeWiper([r0, r1])` (R84). -/
def decodeWiper (r0 r1 : Byte) : U9 :=
  r1.setWidth 9 ||| ((r0 &&& 0x01#8).setWidth 9 <<< 8)

/-- `DecodeRegByte([r0, r1])` (R85): the second received byte. -/
def decodeRegByte (_r0 r1 : Byte) : Byte := r1

/-- `wiper_addr` (R63). -/
def wiperAddr : PotIndex → U4
  | .pot0 => 0x0#4
  | .pot1 => 0x1#4

/-- `TCON_ADDR` (R63). -/
def tconAddr : U4 := 0x4#4

/-- `STATUS_ADDR` (R63). -/
def statusAddr : U4 := 0x5#4

/-- The all-data-bits sentinel sent as the data of every READ (R68). -/
def readSentinel : U9 := 0x1FF#9

/-- The READ frame of a register (R68). -/
def readFrame (address : U4) : List Byte := buildFrame address .read (some readSentinel)

/-- The data value `0x100 | n` of a TCON write (R34, R68). -/
def tconData (n : Byte) : U9 := 0x100#9 ||| n.setWidth 9

/-- The WRITE frame of TCON byte `n` (R106 step 5). -/
def tconWriteFrame (n : Byte) : List Byte := buildFrame tconAddr .write (some (tconData n))

/-- `resolution_max` (R10, R98). -/
def resolutionMax : Resolution → Nat
  | .bits7 => 127
  | .bits8 => 255

/-- `max_value()` (R98). -/
def maxValue (c : Cfg) : Nat :=
  resolutionMax c.resolution + (if c.wiperMode = .potentiometer then 1 else 0)

/-- The value `set` sends: `min(value, max_value())`, which fits u9 (R102). -/
def clampedValue (c : Cfg) (value : Nat) : U9 := BitVec.ofNat 9 (min value (maxValue c))

end Sys2Proof.Machine
end

