-- ==== Sys2Proof/Machine/Flags.lean ====
section
/-! DEFINITION. The flag bits of the control and status registers: masks, the pot 1 shift, set, clear and test (R31, R32,
R35, R105 to R107). The block itself has no flags and no condition codes (R26). -/

namespace Sys2Proof.Machine

/-- `MASK_B`, terminal B (R32). -/
def maskB : Byte := 0x01#8

/-- `MASK_W`, wiper (R32). -/
def maskW : Byte := 0x02#8

/-- `MASK_A`, terminal A (R32). -/
def maskA : Byte := 0x04#8

/-- `MASK_SHDN`, shutdown enable: 1 means enabled, not shut down (R31, R32). -/
def maskShdn : Byte := 0x08#8

/-- The hardware shutdown indicator, STATUS bit 1 (R35). -/
def maskHwShutdown : Byte := 0x02#8

/-- `eff_mask(m)`: the base mask, shifted left by 4 for pot 1 (R32). -/
def effMask (p : PotIndex) (m : Byte) : Byte :=
  match p with
  | .pot0 => m
  | .pot1 => m <<< 4

/-- The new TCON byte of R106 step 4: `current | mask` if setting, `current & ~mask` if clearing. -/
def forceBit (current mask : Byte) (setting : Bool) : Byte :=
  if setting then current ||| mask else current &&& ~~~mask

/-- `(value & mask) != 0` (R107, R116). -/
def testBit (value mask : Byte) : Bool := value &&& mask != 0x00#8

end Sys2Proof.Machine
end

