-- ==== Sys2Proof/Machine/Device.lean ====
section
/-! DEFINITION. The far end of the bus: the reference device (R130), what it does not admit (R74, I1, I4, I5), what a failed
exchange leaves in it (R124), and the link's answer to one exchange (R14, R131). -/

namespace Sys2Proof.Machine

/-- `wiper[p] <- v`. -/
def RefDevice.setWiper (d : RefDevice) (p : PotIndex) (v : U9) : RefDevice :=
  match p with
  | .pot0 => { d with wiper0 := v }
  | .pot1 => { d with wiper1 := v }

/-- `wiper[p]`. -/
def RefDevice.wiper (d : RefDevice) : PotIndex → U9
  | .pot0 => d.wiper0
  | .pot1 => d.wiper1

/-- `dmax[p]`. -/
def RefDevice.dmax (d : RefDevice) : PotIndex → U9
  | .pot0 => d.dmax0
  | .pot1 => d.dmax1

/-- The wiper register of an address (R62). -/
def wiperOfAddr (a : U4) : Option PotIndex :=
  if a = 0x0#4 then some .pot0 else if a = 0x1#4 then some .pot1 else none

/-- `min(wiper[p] + 1, dmax[p])`. -/
def RefDevice.stepUp (d : RefDevice) (p : PotIndex) : U9 :=
  BitVec.ofNat 9 (min ((d.wiper p).toNat + 1) (d.dmax p).toNat)

/-- `max(wiper[p] - 1, 0)`: at 0 it stays 0, with no wrap. -/
def RefDevice.stepDown (d : RefDevice) (p : PotIndex) : U9 :=
  BitVec.ofNat 9 ((d.wiper p).toNat - 1)

/-- The answer to a READ of a wiper: `[wiper[p][8], wiper[p][7:0]]`. -/
def wiperAnswer (v : U9) : List Byte := [(BitVec.ofBool (v[8])).setWidth 8, v.setWidth 8]

/-- The reference device's WRITE cases. -/
def RefDevice.onWrite (d : RefDevice) (a : U4) (data : U9) : Option RefDevice :=
  match wiperOfAddr a with
  | some p => some (d.setWiper p data)
  | none => if a = tconAddr then some { d with tcon := data.setWidth 8 } else none

/-- The reference device's READ cases; a READ changes nothing (R53, log 17). -/
def RefDevice.onRead (d : RefDevice) (a : U4) : Option (List Byte) :=
  match wiperOfAddr a with
  | some p => some (wiperAnswer (d.wiper p))
  | none =>
    if a = tconAddr then some [0x00#8, d.tcon]
    else if a = statusAddr then some [0x00#8, d.status]
    else none

/-- The reference device's answer to the frame `tx` and its state afterwards (R130); `none` is "not admitted". It
refuses every frame of R74 (a) to (d), so also an INCREMENT or DECREMENT with `D8 = 1` and a READ whose data is not
0x1FF (log 6). -/
def RefDevice.respond (d : RefDevice) (tx : List Byte) : Option (List Byte × RefDevice) :=
  match tx with
  | [c] =>
    if ctrlReserved c ∧ ctrlD8 c = false then
      match ctrlCommand c, wiperOfAddr (ctrlAddress c) with
      | .increment, some p => some (tx, d.setWiper p (d.stepUp p))
      | .decrement, some p => some (tx, d.setWiper p (d.stepDown p))
      | .increment, none => none
      | .decrement, none => none
      | .write, _ => none
      | .read, _ => none
    else none
  | [c, b] =>
    if ctrlReserved c then
      match ctrlCommand c with
      | .write => (d.onWrite (ctrlAddress c) (dataValue (ctrlD8 c) b)).map fun d' => (tx, d')
      | .read =>
        if dataValue (ctrlD8 c) b = readSentinel then (d.onRead (ctrlAddress c)).map fun rx => (rx, d) else none
      | .increment => none
      | .decrement => none
    else none
  | _ => none

/-- Whether the reference device admits the frame. -/
def RefDevice.admits (d : RefDevice) (tx : List Byte) : Bool := (d.respond tx).isSome

/-- The register at address `a` takes the value `v`; an address with no register takes nothing. -/
def RefDevice.overwrite (d : RefDevice) (a : U4) (v : U9) : RefDevice :=
  if a = 0x0#4 then { d with wiper0 := v }
  else if a = 0x1#4 then { d with wiper1 := v }
  else if a = tconAddr then { d with tcon := v.setWidth 8 }
  else if a = statusAddr then { d with status := v.setWidth 8 }
  else d

/-- After a failed exchange of `tx` "the register `tx` addresses holds any value"; "the other device registers are
unchanged" (R124). -/
def RefDevice.afterFailure (d : RefDevice) (tx : List Byte) (v : U9) : RefDevice :=
  match tx with
  | [] => d
  | c :: _ => d.overwrite (ctrlAddress c) v

/-- Whether the link's device admits the frame: the real device is an oracle and answers anything (R131). -/
def Link.admits (l : Link) (tx : List Byte) : Bool :=
  match l with
  | .real _ => true
  | .reference d _ => d.admits tx

/-- The reference device's answer when the transport does not fail. A frame it does not admit never reaches it
(the frame instructions are refused before they start, and the operations emit admitted frames only); this function
is total all the same, and the answer is then a free value. -/
def referenceAnswer (d : RefDevice) (fails : List Bool) (tx : List Byte) (n : Nat) : Answer × Link × Nat :=
  match d.respond tx with
  | some (rx, d') => (.received rx, .reference d' fails, n)
  | none => (Config.oracleAnswer n, .reference d fails, n + 1)

/-- The reference device after the transport failed the exchange of `tx`: the drawn register is a free value. -/
def referenceFailure (d : RefDevice) (fails : List Bool) (tx : List Byte) (n : Nat) : Answer × Link × Nat :=
  (.failed, .reference (d.afterFailure tx (Config.drawnRegister n)) fails, n + 1)

/-- One transport exchange of `tx`: the answer, the link afterwards, and the count of free values drawn. -/
def Link.exchange (l : Link) (tx : List Byte) (n : Nat) : Answer × Link × Nat :=
  match l with
  | .real [] => (Config.oracleAnswer n, .real [], n + 1)
  | .real (a :: rest) => (a, .real rest, n)
  | .reference d [] => referenceAnswer d [] tx n
  | .reference d (true :: rest) => referenceFailure d rest tx n
  | .reference d (false :: rest) => referenceAnswer d rest tx n

end Sys2Proof.Machine
end

