-- ==== Sys2Proof/Machine/Ops.lean ====
section
/-! DEFINITION. The shared operations: the updates of State, the selection counter (R90, R91), the scoped guard (R94), the
checked exchange (R92), the self-selecting transfer (R93), the shape of a bus operation (R89), the failure path (R121),
taking a fault (R125), serving a request (R24, R126). CsAssert and CsDeassert never fail (R14, log 16). -/

namespace Sys2Proof.Machine

/-- The event `e` is emitted (R13). -/
def State.emit (s : State) (e : Event) : State := { s with events := s.events ++ [e] }

/-- The request's outcome is recorded (R122). -/
def State.conclude (s : State) (v : Verdict) : State := { s with verdicts := s.verdicts ++ [v] }

/-- The link and the draw count after an exchange. -/
def State.setLink (s : State) (l : Link) (n : Nat) : State := { s with link := l, draws := n }

/-- `phase <- p` (R24). -/
def State.setPhase (s : State) (p : Phase) : State := { s with blk := { s.blk with phase := p } }

/-- `sel_count <- n` (R22). -/
def State.setSelCount (s : State) (n : Nat) : State := { s with blk := { s.blk with selCount := n } }

/-- `cs_asserted <- b` (R23). -/
def State.setCs (s : State) (b : Bool) : State := { s with blk := { s.blk with csAsserted := b } }

/-- The position `k` of `Busy(op, k)` moves on by one primitive (R24). -/
def Phase.next : Phase → Phase
  | .idle => .idle
  | .busy i k => .busy i (k + 1)

/-- One more primitive of the running operation is complete. -/
def State.tick (s : State) : State := s.setPhase s.blk.phase.next

/-- TAKING A FAULT (R125): `faulted` is set, no event is emitted and no `Deselect` runs; the phase stays where the
fault found it (log 9, log 12). -/
def State.enterFault (s : State) (f : Fault) : State :=
  ({ s with blk := { s.blk with faulted := true } }).conclude (.fault f)

/-- A request is accepted only when `phase = Idle` and `faulted = false` (R24). -/
def State.ready (s : State) : Bool := s.blk.phase == .idle && !s.blk.faulted

/-- How a piece of pseudocode ends (R14): it returns a value, raises `TransportFailure`, or faults. -/
inductive Exit (α : Type) where
  | ret (v : α) (s : State)
  | raised (s : State)
  | fault (f : Fault) (s : State)
deriving DecidableEq, Repr

/-- Go on after a normal end; a raise or a fault ends the rest. -/
def Exit.andThen (x : Exit α) (k : α → State → Exit β) : Exit β :=
  match x with
  | .ret v s => k v s
  | .raised s => .raised s
  | .fault f s => .fault f s

/-- The 0→1 transition of `Select`: the line is asserted (R90). -/
def State.assertLine (s : State) : State :=
  if s.blk.selCount = 0 then ((s.emit .csAssert).setCs true) else s

/-- `Select()` (R90). -/
def selectStep (s : State) : Exit Unit :=
  if s.blk.cfg.fits (s.blk.selCount + 1) then
    .ret () (s.assertLine.setSelCount (s.blk.selCount + 1)).tick
  else .fault .selectOverflow s.assertLine

/-- The 1→0 transition of `Deselect`: the line is released (R91). -/
def State.releaseLine (s : State) : State :=
  if s.blk.selCount = 0 then ((s.emit .csDeassert).setCs false) else s

/-- `Deselect()` (R91). -/
def deselectStep (s : State) : Exit Unit :=
  if s.blk.selCount = 0 then .fault .deselectUnderflow s
  else .ret () (s.setSelCount (s.blk.selCount - 1)).releaseLine.tick

/-- `guarded { body }` (R94): `Deselect` runs when `body` returns and when it raises, and not when it faults. Its
raising exit is the unwinding of R121 step 2. -/
def guarded (body : State → Exit α) (s : State) : Exit α :=
  match body s with
  | .ret v t => (deselectStep t).andThen fun _ u => .ret v u
  | .raised t => (deselectStep t).andThen fun _ u => .raised u
  | .fault f t => .fault f t

/-- `ExchangeChecked(tx)` (R92), its checks in the order of R127. -/
def exchangeChecked (tx : List Byte) (s : State) : Exit (List Byte) :=
  if s.blk.selCount = 0 then .fault .exchangeWithoutSelect s
  else
    match s.link.exchange tx s.draws with
    | (.failed, l, n) => .raised ((s.setLink l n).emit (.exchangeFail tx)).tick
    | (.received rx, l, n) =>
      if rx.length = tx.length then .ret rx ((s.setLink l n).emit (.exchange tx rx)).tick
      else .fault .rxLengthMismatch (s.setLink l n)

/-- The shape of every bus operation (R89): `Select()`, then `body` guarded. -/
def operation (body : State → Exit α) (s : State) : Exit α :=
  (selectStep s).andThen fun _ t => guarded body t

/-- `Transfer(tx)` (R93): a self-selecting exchange. -/
def transfer (tx : List Byte) (s : State) : Exit (List Byte) := operation (exchangeChecked tx) s

/-- A 2-byte response's two bytes go to `k`. A checked exchange of a 2-byte frame returns two bytes; any other
length is its fault. -/
def withPair (rx : List Byte) (k : Byte → Byte → Exit α) (s : State) : Exit α :=
  match rx with
  | [r0, r1] => k r0 r1
  | _ => .fault .rxLengthMismatch s

/-- The end of an operation: `Ok`, or `Err(TransportFailure)` by R121 steps 3 and 4, and `phase` goes back to `Idle`
(R24); or a fault (R125). -/
def Exit.finish : Exit Result → State
  | .ret v s => (s.setPhase .idle).conclude (.ok v)
  | .raised s => (s.setPhase .idle).conclude .transportFailure
  | .fault f s => s.enterFault f

/-- Serve one request: refused `NotReady` unless the instance is ready (R126), else the body runs from
`Busy(op, 0)` (R24). -/
def serve (i : Instr) (body : State → Exit Result) (s : State) : State :=
  if s.ready then (body (s.setPhase (.busy i 0))).finish else s.conclude (.denied .notReady)

/-- A request is accepted and the counter has room for `n` nested selections (R90, R95): the request comes as far as what
stands inside them. -/
def State.reaches (s : State) (n : Nat) : Bool := s.ready && s.blk.cfg.fits (s.blk.selCount + n)

/-- A frame instruction: the self-selecting transfer of `tx` (R93), its response used by `use` (R75). The reference
device's refusal of a frame (R74) stops the run before anything is sent (log 6), but only where the `Select` before the
exchange has room: without it the frame never reaches the device (R90). -/
def serveFrame (i : Instr) (tx : List Byte) (use : List Byte → State → Exit Result) (s : State) :
    Host.Outcome State Fault Refusal :=
  if s.reaches 1 && !s.link.admits tx then .refused .deviceRefusesFrame
  else .next (serve i (fun t => (transfer tx t).andThen use) s)

/-- The response is ignored (R75). -/
def ignoreResponse (_rx : List Byte) (s : State) : Exit Result := .ret .unit s

/-- The response holds a wiper position (R75, R84). -/
def wiperResponse (rx : List Byte) (s : State) : Exit Result :=
  withPair rx (fun r0 r1 => .ret (.nat (decodeWiper r0 r1).toNat) s) s

/-- The response holds a TCON or STATUS byte (R75, R85). -/
def regResponse (rx : List Byte) (s : State) : Exit Result :=
  withPair rx (fun r0 r1 => .ret (.nat (decodeRegByte r0 r1).toNat) s) s

/-- The response of a register the source does not name: no rule decodes it, so the received bytes stand. -/
def rawResponse (rx : List Byte) (s : State) : Exit Result := .ret (.bytes rx) s

/-- How the response of a READ of address `a` is used (R75). -/
def readResponse (a : U4) : List Byte → State → Exit Result :=
  if isWiperAddr a then wiperResponse
  else if a = tconAddr ∨ a = statusAddr then regResponse
  else rawResponse

/-- A codec call: combinational, so it reads no block state, writes none and emits no event (R82). Only the model's
own record takes the value. -/
def codecResult (r : Result) (s : State) : Host.Outcome State Fault Refusal := .next (s.conclude (.ok r))

/-- The instance's wiper address (R63). -/
def State.wiperAddr (s : State) : U4 := Machine.wiperAddr s.blk.cfg.potIndex

/-- The instance's `eff_mask` (R32). -/
def State.effMask (s : State) (m : Byte) : Byte := Machine.effMask s.blk.cfg.potIndex m

/-- The level of the chip-select line after one event that found it at `level` (R13). -/
def Event.drives (e : Event) (level : Bool) : Bool :=
  match e with
  | .csAssert => true
  | .csDeassert => false
  | .exchange _ _ => level
  | .exchangeFail _ => level

/-- The level after a sequence of events. -/
def lineLevel (level : Bool) (evs : List Event) : Bool := evs.foldl (fun l e => e.drives l) level

/-- The physical level of the chip-select line both instances share (R37): it starts deasserted, and each instance's
`CsAssert` and `CsDeassert` move it (R13, R146; log 11). -/
def State.csLine (s : State) : Bool := lineLevel false s.events

end Sys2Proof.Machine
end

