-- ==== Sys2Proof/Machine/Codec.lean ====
section
/-! DEFINITION. Meanings of the codec rows (R83 to R85): pure, in every state, ready or not (R82). -/

namespace Sys2Proof.Machine

/-- `BuildFrame` (R83). -/
def execBuildFrame (address : U4) (command : Command) (data : Option U9) (s : State) :
    Host.Outcome State Fault Refusal :=
  codecResult (.bytes (buildFrame address command data)) s

/-- `DecodeWiper` (R84). -/
def execDecodeWiper (r0 r1 : Byte) (s : State) : Host.Outcome State Fault Refusal :=
  codecResult (.nat (decodeWiper r0 r1).toNat) s

/-- `DecodeRegByte` (R85). -/
def execDecodeRegByte (r0 r1 : Byte) (s : State) : Host.Outcome State Fault Refusal :=
  codecResult (.nat (decodeRegByte r0 r1).toNat) s

end Sys2Proof.Machine
end

