-- ==== Sys2Proof/Machine/Control.lean ====
section
/-! DEFINITION. Meanings of the control-register and status operations (spec/43_control_register_ops.md). -/

namespace Sys2Proof.Machine

/-- `TconUpdateBit(m, setting)` (R106). -/
def tconUpdateBit (m : Byte) (setting : Bool) : State → Exit Result :=
  operation fun t =>
    (transfer (readFrame tconAddr) t).andThen fun rx u =>
      withPair rx (fun r0 r1 =>
        (transfer (tconWriteFrame (forceBit (decodeRegByte r0 r1) (u.effMask m) setting)) u).andThen ignoreResponse) u

/-- A READ of register `addr` whose byte gives a Boolean result by `f`, which also sees the state: the shape of R107
and R116. -/
def readFlag (addr : U4) (f : State → Byte → Bool) : State → Exit Result :=
  operation fun t =>
    (transfer (readFrame addr) t).andThen fun rx u =>
      withPair rx (fun r0 r1 => .ret (.bool (f u (decodeRegByte r0 r1))) u) u

/-- `TconGetBit(m)` (R107). -/
def tconGetBit (m : Byte) : State → Exit Result :=
  readFlag tconAddr fun u b => testBit b (u.effMask m)

/-- `set_terminal_a_status(b)` (R108). -/
def execSetTerminalAStatus (flag : Bool) (s : State) : Host.Outcome State Fault Refusal :=
  .next (serve (.setTerminalAStatus flag) (tconUpdateBit maskA flag) s)

/-- `set_terminal_b_status(b)` (R109). -/
def execSetTerminalBStatus (flag : Bool) (s : State) : Host.Outcome State Fault Refusal :=
  .next (serve (.setTerminalBStatus flag) (tconUpdateBit maskB flag) s)

/-- `set_wiper_status(b)` (R110). -/
def execSetWiperStatus (flag : Bool) (s : State) : Host.Outcome State Fault Refusal :=
  .next (serve (.setWiperStatus flag) (tconUpdateBit maskW flag) s)

/-- `get_terminal_a_status` (R111). -/
def execGetTerminalAStatus (s : State) : Host.Outcome State Fault Refusal :=
  .next (serve .getTerminalAStatus (tconGetBit maskA) s)

/-- `get_terminal_b_status` (R112). -/
def execGetTerminalBStatus (s : State) : Host.Outcome State Fault Refusal :=
  .next (serve .getTerminalBStatus (tconGetBit maskB) s)

/-- `get_wiper_status` (R113). -/
def execGetWiperStatus (s : State) : Host.Outcome State Fault Refusal :=
  .next (serve .getWiperStatus (tconGetBit maskW) s)

/-- `set_shutdown_status(s)` (R114): the stored bit means "enabled", so the setting is inverted. -/
def execSetShutdownStatus (flag : Bool) (s : State) : Host.Outcome State Fault Refusal :=
  .next (serve (.setShutdownStatus flag) (tconUpdateBit maskShdn (!flag)) s)

/-- `get_shutdown_status` (R115): the negation of the stored enable bit. -/
def execGetShutdownStatus (s : State) : Host.Outcome State Fault Refusal :=
  .next (serve .getShutdownStatus (readFlag tconAddr fun u b => !testBit b (u.effMask maskShdn)) s)

/-- `get_hardware_shutdown_status` (R116): STATUS bit 1, its mask not shifted by `POT_INDEX`. -/
def execGetHardwareShutdownStatus (s : State) : Host.Outcome State Fault Refusal :=
  .next (serve .getHardwareShutdownStatus (readFlag statusAddr fun _ b => testBit b maskHwShutdown) s)

end Sys2Proof.Machine
end

