-- ==== Sys2Proof/Machine/Frames.lean ====
section
/-! DEFINITION. Meanings of the frame rows: each is the self-selecting transfer (R93) of its bytes. The emitted rows (R71)
send what `BuildFrame` builds; the generic rows send the bits the frame carries (log 14). -/

namespace Sys2Proof.Machine

/-- `WRITE <a>, data`: the response is ignored (R75). -/
def execWrite (a : U4) (data : U9) (s : State) : Host.Outcome State Fault Refusal :=
  serveFrame (.write a data) (dataFrame a .write data) ignoreResponse s

/-- `INCR <a>`. -/
def execIncr (a : U4) (s : State) : Host.Outcome State Fault Refusal :=
  serveFrame (.incr a) (buildFrame a .increment none) ignoreResponse s

/-- `DECR <a>`. -/
def execDecr (a : U4) (s : State) : Host.Outcome State Fault Refusal :=
  serveFrame (.decr a) (buildFrame a .decrement none) ignoreResponse s

/-- `READ <a>` with the data bits the frame carries; the response by R75. -/
def execRead (a : U4) (data : U9) (s : State) : Host.Outcome State Fault Refusal :=
  serveFrame (.read a data) (dataFrame a .read data) (readResponse a) s

/-- `WRITE WIPER0, v` (R71, R102). -/
def execWriteWiper0 (v : U9) (s : State) : Host.Outcome State Fault Refusal :=
  serveFrame (.writeWiper0 v) (buildFrame (wiperAddr .pot0) .write (some v)) ignoreResponse s

/-- `WRITE WIPER1, v` (R71, R102). -/
def execWriteWiper1 (v : U9) (s : State) : Host.Outcome State Fault Refusal :=
  serveFrame (.writeWiper1 v) (buildFrame (wiperAddr .pot1) .write (some v)) ignoreResponse s

/-- `INCR WIPER0` (R71, R100). -/
def execIncrWiper0 (s : State) : Host.Outcome State Fault Refusal :=
  serveFrame .incrWiper0 (buildFrame (wiperAddr .pot0) .increment none) ignoreResponse s

/-- `INCR WIPER1` (R71, R100). -/
def execIncrWiper1 (s : State) : Host.Outcome State Fault Refusal :=
  serveFrame .incrWiper1 (buildFrame (wiperAddr .pot1) .increment none) ignoreResponse s

/-- `DECR WIPER0` (R71, R101). -/
def execDecrWiper0 (s : State) : Host.Outcome State Fault Refusal :=
  serveFrame .decrWiper0 (buildFrame (wiperAddr .pot0) .decrement none) ignoreResponse s

/-- `DECR WIPER1` (R71, R101). -/
def execDecrWiper1 (s : State) : Host.Outcome State Fault Refusal :=
  serveFrame .decrWiper1 (buildFrame (wiperAddr .pot1) .decrement none) ignoreResponse s

/-- `READ WIPER0` (R71, R103). -/
def execReadWiper0 (s : State) : Host.Outcome State Fault Refusal :=
  serveFrame .readWiper0 (readFrame (wiperAddr .pot0)) wiperResponse s

/-- `READ WIPER1` (R71, R103). -/
def execReadWiper1 (s : State) : Host.Outcome State Fault Refusal :=
  serveFrame .readWiper1 (readFrame (wiperAddr .pot1)) wiperResponse s

/-- `READ TCON` (R71, R106). -/
def execReadTcon (s : State) : Host.Outcome State Fault Refusal :=
  serveFrame .readTcon (readFrame tconAddr) regResponse s

/-- `WRITE TCON, n` (R71, R106). -/
def execWriteTcon (n : Byte) (s : State) : Host.Outcome State Fault Refusal :=
  serveFrame (.writeTcon n) (tconWriteFrame n) ignoreResponse s

/-- `READ STATUS` (R71, R116). -/
def execReadStatus (s : State) : Host.Outcome State Fault Refusal :=
  serveFrame .readStatus (readFrame statusAddr) regResponse s

end Sys2Proof.Machine
end

