-- ==== Sys2Proof/Machine/Selection.lean ====
section
/-! DEFINITION. Meanings of the host's `select` and `deselect` (R96, R97). -/

namespace Sys2Proof.Machine

/-- `select` (R96). -/
def execSelect (s : State) : Host.Outcome State Fault Refusal :=
  .next (serve .select (fun t => (selectStep t).andThen fun _ u => .ret .unit u) s)

/-- `deselect` (R97); at `sel_count = 0` it faults `DeselectUnderflow`. -/
def execDeselect (s : State) : Host.Outcome State Fault Refusal :=
  .next (serve .deselect (fun t => (deselectStep t).andThen fun _ u => .ret .unit u) s)

end Sys2Proof.Machine
end

