-- ==== Sys2Proof/Machine/Wiper.lean ====
section
/-! DEFINITION. Meanings of the wiper operations (spec/42_wiper_ops.md). -/

namespace Sys2Proof.Machine

/-- `max_value` (R98): pure, no bus access. -/
def execMaxValue (s : State) : Host.Outcome State Fault Refusal :=
  .next (serve .maxValue (fun t => .ret (.nat (maxValue t.blk.cfg)) t) s)

/-- One frame to the instance's wiper, its response ignored: the common shape of R99. -/
def wiperCommand (command : Command) (data : Option U9) : State → Exit Result :=
  operation fun t => (transfer (buildFrame t.wiperAddr command data) t).andThen ignoreResponse

/-- `increment` (R100). -/
def execIncrement (s : State) : Host.Outcome State Fault Refusal :=
  .next (serve .increment (wiperCommand .increment none) s)

/-- `decrement` (R101). -/
def execDecrement (s : State) : Host.Outcome State Fault Refusal :=
  .next (serve .decrement (wiperCommand .decrement none) s)

/-- `set(value)` (R102); a negative value is refused at the interface, before anything else is looked at (R126,
log 10). -/
def execSet (value : Int) (s : State) : Host.Outcome State Fault Refusal :=
  if value < 0 then .next (s.conclude (.denied .negativeValue))
  else .next (serve (.set value) (wiperCommand .write (some (clampedValue s.blk.cfg value.toNat))) s)

/-- `get` (R103): the decoded position, not clamped. -/
def execGet (s : State) : Host.Outcome State Fault Refusal :=
  .next (serve .get (operation fun t => (transfer (readFrame t.wiperAddr) t).andThen wiperResponse) s)

end Sys2Proof.Machine
end

