-- ==== Sys2Proof/Machine/Dispatch.lean ====
section
/-! DEFINITION. One arm per instruction: the row of spec/opcode_table.json and its meaning. -/

namespace Sys2Proof.Machine

/-- The meaning of each instruction, as the first (or only) instance of the chip executes it. -/
def exec (i : Instr) (s : State) : Host.Outcome State Fault Refusal :=
  match i with
  | .write a data => Sys2Proof.Machine.execWrite a data s
  | .incr a => Sys2Proof.Machine.execIncr a s
  | .decr a => Sys2Proof.Machine.execDecr a s
  | .read a data => Sys2Proof.Machine.execRead a data s
  | .writeWiper0 v => Sys2Proof.Machine.execWriteWiper0 v s
  | .writeWiper1 v => Sys2Proof.Machine.execWriteWiper1 v s
  | .incrWiper0 => Sys2Proof.Machine.execIncrWiper0 s
  | .incrWiper1 => Sys2Proof.Machine.execIncrWiper1 s
  | .decrWiper0 => Sys2Proof.Machine.execDecrWiper0 s
  | .decrWiper1 => Sys2Proof.Machine.execDecrWiper1 s
  | .readWiper0 => Sys2Proof.Machine.execReadWiper0 s
  | .readWiper1 => Sys2Proof.Machine.execReadWiper1 s
  | .readTcon => Sys2Proof.Machine.execReadTcon s
  | .writeTcon n => Sys2Proof.Machine.execWriteTcon n s
  | .readStatus => Sys2Proof.Machine.execReadStatus s
  | .buildFrame address command data => Sys2Proof.Machine.execBuildFrame address command data s
  | .decodeWiper r0 r1 => Sys2Proof.Machine.execDecodeWiper r0 r1 s
  | .decodeRegByte r0 r1 => Sys2Proof.Machine.execDecodeRegByte r0 r1 s
  | .maxValue => Sys2Proof.Machine.execMaxValue s
  | .increment => Sys2Proof.Machine.execIncrement s
  | .decrement => Sys2Proof.Machine.execDecrement s
  | .set value => Sys2Proof.Machine.execSet value s
  | .get => Sys2Proof.Machine.execGet s
  | .setTerminalAStatus flag => Sys2Proof.Machine.execSetTerminalAStatus flag s
  | .setTerminalBStatus flag => Sys2Proof.Machine.execSetTerminalBStatus flag s
  | .setWiperStatus flag => Sys2Proof.Machine.execSetWiperStatus flag s
  | .getTerminalAStatus => Sys2Proof.Machine.execGetTerminalAStatus s
  | .getTerminalBStatus => Sys2Proof.Machine.execGetTerminalBStatus s
  | .getWiperStatus => Sys2Proof.Machine.execGetWiperStatus s
  | .setShutdownStatus flag => Sys2Proof.Machine.execSetShutdownStatus flag s
  | .getShutdownStatus => Sys2Proof.Machine.execGetShutdownStatus s
  | .getHardwareShutdownStatus => Sys2Proof.Machine.execGetHardwareShutdownStatus s
  | .select => Sys2Proof.Machine.execSelect s
  | .deselect => Sys2Proof.Machine.execDeselect s

end Sys2Proof.Machine
end

