-- ==== Sys2Proof/Machine/Fetch.lean ====
section
/-! DEFINITION. Taking the next request: a row called by name, or a frame whose bytes are decoded; for the first or the
second instance of the chip (R12, R37, R146). -/

namespace Sys2Proof.Machine

/-- The instruction a request asks for. -/
def Order.fetch : Order → Except DecodeError Instr
  | .call i => .ok i
  | .frame bytes => decodeFrame bytes

/-- The two instances of the chip change places. -/
def State.swap (s : State) : State :=
  match s.second with
  | none => s
  | some b => { s with blk := b, second := some s.blk }

/-- The selections an instruction opens before its first exchange: a frame row its transfer's own (R93), a host operation
one more around it (R95). -/
def selectsBeforeExchange (i : Instr) : Nat := if (encode i).isSome then 1 else 2

/-- `i` is accepted and comes to an exchange inside a selection its instance already holds, but the shared line stands
released (log 11). Where the counter has no room for the `Select`s before that exchange, `i` faults there and exchanges
nothing (R90), so it is served. An instance alone on its chip never meets this: its line agrees with the counter (R23). -/
def State.lineLost (s : State) (i : Instr) : Bool :=
  i.exchanges && s.reaches (selectsBeforeExchange i) && s.blk.csAsserted && !s.csLine

/-- The first instance executes `i`. -/
def runHere (i : Instr) (s : State) : Host.Outcome State Fault Refusal :=
  if s.lineLost i then .refused .lineReleased else exec i s

/-- The outcome with the two instances back in their places. -/
def swapBack : Host.Outcome State Fault Refusal → Host.Outcome State Fault Refusal
  | .next s => .next s.swap
  | .fault f => .fault f
  | .refused r => .refused r

/-- The instance a request is for executes `i`. -/
def runAt (slot : Slot) (i : Instr) (s : State) : Host.Outcome State Fault Refusal :=
  match slot with
  | .first => runHere i s
  | .second =>
    match s.second with
    | none => .refused .noSecondSlot
    | some _ => swapBack (runHere i s.swap)

/-- The state with the requests `rest` still pending. -/
def State.setInbox (s : State) (rest : List Request) : State := { s with inbox := rest }

/-- Take the next request, if there is one, and run it; with none the block stays idle. -/
def takeRequest (s : State) : Host.Outcome State Fault Refusal :=
  match s.inbox with
  | [] => .next s
  | r :: rest =>
    match r.order.fetch with
    | .error e => .refused (.notAFrame e)
    | .ok i => runAt r.slot i (s.setInbox rest)

/-- `s` with the frame of a table word presented as the next request of the first instance. -/
def presentWord (s : State) (nbits w : Nat) : State :=
  s.setInbox ({ slot := .first, order := .frame (tableWordFrame nbits w) } :: s.inbox)

end Sys2Proof.Machine
end

