-- ==== Sys2Proof/Machine/Step.lean ====
section
/-! DEFINITION. One step: one whole request, indivisible (R24, R146; log 16). -/

namespace Sys2Proof.Machine

/-- One step of the machine: the next pending request, from its start to its end (R8: "One host request is one
operation"). -/
def step (s : State) : Host.Outcome State Fault Refusal := takeRequest s

/-- `s` with an opcode-table word presented so that the very next step runs it (log 2). -/
def State.withFetchWord (s : State) (nbits w : Nat) : State := presentWord s nbits w

end Sys2Proof.Machine
end

