-- ==== Sys2Proof/Safety.lean ====
section
/-! DEFINITION. What claims about whole runs are stated in: the chip-select invariants (R23, R39), the discipline of an event
history (R13, R23, R144), a finished run (R145, I18). -/

namespace Sys2Proof.Machine

/-- `cs_asserted = (sel_count > 0)` (R23). -/
abbrev Block.lineAgrees (b : Block) : Prop := b.csAsserted = decide (0 < b.selCount)

/-- An instance between two operations: the counter fits, the width is one a build may have (R11), the line agrees
with the counter (R23), and an unfaulted instance is idle (R24). -/
abbrev Block.Settled (b : Block) : Prop :=
  b.cfg.wf = true ∧ b.cfg.fits b.selCount = true ∧ b.lineAgrees ∧ (b.faulted = false → b.phase = .idle)

/-- Every instance settled. -/
abbrev State.Settled (s : State) : Prop := s.blk.Settled ∧ ∀ b ∈ s.second, b.Settled

/-- The counter has room for the two nested selections of an operation (R95, R11). -/
def Block.hasRoom (b : Block) : Bool := b.cfg.fits (b.selCount + 2)

/-- An accepted request (R24) with room for one selection, on a line that agrees with the counter (R23): what the single
selection of a `Transfer` (R93) needs. -/
abbrev State.CanSelect (s : State) : Prop :=
  s.ready = true ∧ s.blk.cfg.fits (s.blk.selCount + 1) = true ∧ s.blk.lineAgrees

/-- An accepted request (R24) has room for its selections, on a line that agrees with the counter (R23). -/
abbrev State.CanRun (s : State) : Prop := s.ready = true ∧ s.blk.hasRoom = true ∧ s.blk.lineAgrees

/-- The chip-select event of an operation's first `Select` (R95). -/
def State.openEvents (s : State) : List Event := if s.blk.selCount = 0 then [.csAssert] else []

/-- The chip-select event of an operation's last `Deselect` (R95). -/
def State.closeEvents (s : State) : List Event := if s.blk.selCount = 0 then [.csDeassert] else []

/-- `s` after a bus operation that ended by `return` or by `raise`: the link and the draw count are `l` and `n`, the
bus events `evs` stand between the operation's chip-select events, the outcome is `v`, and nothing else differs
(R95, R121, R39). -/
def State.ran (s : State) (l : Link) (n : Nat) (evs : List Event) (v : Verdict) : State :=
  { s with
    link := l
    draws := n
    events := s.events ++ s.openEvents ++ evs ++ s.closeEvents
    verdicts := s.verdicts ++ [v] }

/-- `s` after operation `i` faulted `f` with `k` primitives complete and `d` selections not given back: no `Deselect`
has run and the line stands asserted (R94, R125, vector V-FR-4). -/
def State.stuck (s : State) (i : Instr) (k d : Nat) (l : Link) (n : Nat) (evs : List Event) (f : Fault) : State :=
  { s with
    blk := { s.blk with selCount := s.blk.selCount + d, csAsserted := true, phase := .busy i k, faulted := true }
    link := l
    draws := n
    events := s.events ++ s.openEvents ++ evs
    verdicts := s.verdicts ++ [.fault f] }

/-- An exchange, failed or not, is made "only while the device's select line is asserted" (R13, R144), and an answered
one has the frame's length (R13). -/
def Event.allowed (e : Event) (level : Bool) : Bool :=
  match e with
  | .csAssert => true
  | .csDeassert => true
  | .exchange tx rx => level && rx.length == tx.length
  | .exchangeFail _ => level

/-- Every event of a history that finds the line at `level` is allowed. -/
def historyAllowed (level : Bool) : List Event → Bool
  | [] => true
  | e :: rest => e.allowed level && historyAllowed (e.drives level) rest

/-- The whole history is allowed. -/
abbrev State.HistoryInOrder (s : State) : Prop := historyAllowed false s.events = true

/-- Chip select goes up and down in turn (R23): no `CsAssert` of an asserted line, no `CsDeassert` of a released one. -/
def alternates (level : Bool) : List Event → Bool
  | [] => true
  | .csAssert :: rest => !level && alternates true rest
  | .csDeassert :: rest => level && alternates false rest
  | .exchange _ _ :: rest => alternates level rest
  | .exchangeFail _ :: rest => alternates level rest

/-- An instance alone on its chip: the line is where it drives it, and goes up and down in turn. -/
abbrev State.DrivesTheLine (s : State) : Prop :=
  s.second = none ∧ s.csLine = s.blk.csAsserted ∧ alternates false s.events = true

/-- The frame an event carries. -/
def Event.sent : Event → Option (List Byte)
  | .csAssert => none
  | .csDeassert => none
  | .exchange tx _ => some tx
  | .exchangeFail tx => some tx

/-- An instance at a normal end: idle, unfaulted, no selection held. -/
abbrev Block.atRest (b : Block) : Prop := b.phase = .idle ∧ b.faulted = false ∧ b.selCount = 0

/-- A finished run: nothing pending, and every instance at rest; "a run that ends with `sel_count > 0` after a host
`select`" is not finished (R145, I18). -/
abbrev State.Finished (s : State) : Prop :=
  s.inbox = [] ∧ s.blk.atRest ∧ ∀ b ∈ s.second, b.atRest

/-- The response a verdict delivers to the host (R12): the code of R122 and the result; a fault or a refusal delivers
none ("answered with nothing", R126). -/
def Verdict.response : Verdict → Option (Nat × Option Result)
  | .ok r => some (0, some r)
  | .transportFailure => some (1, none)
  | .fault _ => none
  | .denied _ => none

/-- The responses of a run (R12), oldest first. -/
def State.responses (s : State) : List (Nat × Option Result) := s.verdicts.filterMap Verdict.response

end Sys2Proof.Machine
end

