-- ==== Sys2Proof/Certificates/Slice0/Obligations.lean ====
section
/-! DEFINITION. The statements for the provers. The frames of R71 are written out here byte by byte, not taken from the
model's `BuildFrame`. Every statement about a free value (what the transport answers, what a failed exchange leaves) holds
for every value of it: the answer stands in a hypothesis on `Link.exchange`. -/

namespace Sys2Proof.Claims
open Sys2Proof.Machine

/-- The 16 host operations: the rows of format `OP` (R12). -/
def hostOperation : Instr → Bool
  | .maxValue | .increment | .decrement | .set _ | .get => true
  | .setTerminalAStatus _ | .setTerminalBStatus _ | .setWiperStatus _ | .setShutdownStatus _ => true
  | .getTerminalAStatus | .getTerminalBStatus | .getWiperStatus | .getShutdownStatus => true
  | .getHardwareShutdownStatus | .select | .deselect => true
  | _ => false

/-- The 15 frame rows. -/
def frameRow : Instr → Bool
  | .write _ _ | .incr _ | .decr _ | .read _ _ => true
  | .writeWiper0 _ | .writeWiper1 _ | .incrWiper0 | .incrWiper1 | .decrWiper0 | .decrWiper1 => true
  | .readWiper0 | .readWiper1 | .readTcon | .writeTcon _ | .readStatus => true
  | _ => false

/-- The nested selections before the first exchange: one for a frame row, which is a single `Transfer` (R93), two for a host
operation (R95). -/
def selectionsNeeded (i : Instr) : Nat := if frameRow i then 1 else 2

/-- INCREMENT of the instance's wiper (R71). -/
def incrBytes : PotIndex → List Byte
  | .pot0 => [0x06#8]
  | .pot1 => [0x16#8]

/-- DECREMENT of the instance's wiper (R71). -/
def decrBytes : PotIndex → List Byte
  | .pot0 => [0x0A#8]
  | .pot1 => [0x1A#8]

/-- READ of the instance's wiper (R71). -/
def getBytes : PotIndex → List Byte
  | .pot0 => [0x0F#8, 0xFF#8]
  | .pot1 => [0x1F#8, 0xFF#8]

/-- WRITE of `v` in 0..256 to the instance's wiper (R71). -/
def setBytes : PotIndex → Nat → List Byte
  | .pot0, v => [if v = 256 then 0x03#8 else 0x02#8, BitVec.ofNat 8 v]
  | .pot1, v => [if v = 256 then 0x13#8 else 0x12#8, BitVec.ofNat 8 v]

/-- READ of TCON (R71). -/
def readTconBytes : List Byte := [0x4F#8, 0xFF#8]

/-- READ of STATUS (R71). -/
def readStatusBytes : List Byte := [0x5F#8, 0xFF#8]

/-- WRITE of byte `n` to TCON (R71, conflict C1). -/
def writeTconBytes (n : Byte) : List Byte := [if n = 0x00#8 ∨ n = 0xFF#8 then 0x43#8 else 0x42#8, n]

/-- `max_value()` by the table of R98. -/
def maxByTable (c : Cfg) : Nat :=
  match c.resolution, c.wiperMode with
  | .bits7, .rheostat => 127
  | .bits7, .potentiometer => 128
  | .bits8, .rheostat => 255
  | .bits8, .potentiometer => 256

/-- The decoded position `r1 | ((r0 & 1) << 8)` as a number (R84). -/
def positionOf (r0 r1 : Byte) : Nat := r1.toNat + (if r0[0] then 256 else 0)

/-- The one frame of a one-frame host operation on an instance configured `c` (R78). -/
def oneFrame (c : Cfg) : Instr → Option (List Byte)
  | .increment => some (incrBytes c.potIndex)
  | .decrement => some (decrBytes c.potIndex)
  | .set v => if v < 0 then none else some (setBytes c.potIndex (min v.toNat (maxByTable c)))
  | .get => some (getBytes c.potIndex)
  | .getTerminalAStatus | .getTerminalBStatus | .getWiperStatus | .getShutdownStatus => some readTconBytes
  | .getHardwareShutdownStatus => some readStatusBytes
  | _ => none

/-- The bit number of each TCON flag of an instance (R31): 0 to 3 for pot 0, 4 to 7 for pot 1. -/
def flagBit (p : PotIndex) (base : Nat) : Nat :=
  match p with
  | .pot0 => base
  | .pot1 => base + 4

/-- Bit `j` of `b` replaced by `v`, the other seven kept (R33). -/
def withBit (b : Byte) (j : Nat) (v : Bool) : Byte :=
  if v then b ||| (0x01#8 <<< j) else b &&& ~~~(0x01#8 <<< j)

/-- The four TCON setters with argument `b`: the bit number for pot 0 (R31, R105) and the bit's new value (R108 to
R110, R114). -/
def setterOf : Instr → Option (Nat × Bool)
  | .setTerminalBStatus b => some (0, b)
  | .setWiperStatus b => some (1, b)
  | .setTerminalAStatus b => some (2, b)
  | .setShutdownStatus b => some (3, !b)
  | _ => none

/-- The four TCON getters: the bit number for pot 0, and whether the result is the bit's negation (R111 to R113,
R115). -/
def getterOf : Instr → Option (Nat × Bool)
  | .getTerminalBStatus => some (0, false)
  | .getWiperStatus => some (1, false)
  | .getTerminalAStatus => some (2, false)
  | .getShutdownStatus => some (3, true)
  | _ => none

/-- The bytes of the emitted frame rows (R71), where the operand is one the row admits. -/
def emittedBytes : Instr → Option (List Byte)
  | .writeWiper0 v => if v.toNat ≤ 256 then some (setBytes .pot0 v.toNat) else none
  | .writeWiper1 v => if v.toNat ≤ 256 then some (setBytes .pot1 v.toNat) else none
  | .incrWiper0 => some (incrBytes .pot0)
  | .incrWiper1 => some (incrBytes .pot1)
  | .decrWiper0 => some (decrBytes .pot0)
  | .decrWiper1 => some (decrBytes .pot1)
  | .readWiper0 => some (getBytes .pot0)
  | .readWiper1 => some (getBytes .pot1)
  | .readTcon => some readTconBytes
  | .writeTcon n => some (writeTconBytes n)
  | .readStatus => some readStatusBytes
  | _ => none

/-- The result of a frame row from its response (R75): a position, a register byte, nothing; the received bytes where
the address names no register. -/
def frameResult : Instr → List Byte → Result
  | .readWiper0, [r0, r1] | .readWiper1, [r0, r1] => .nat (positionOf r0 r1)
  | .readTcon, [_, r1] | .readStatus, [_, r1] => .nat r1.toNat
  | .read a _, [r0, r1] =>
    if a = 0x0#4 ∨ a = 0x1#4 then .nat (positionOf r0 r1)
    else if a = 0x4#4 ∨ a = 0x5#4 then .nat r1.toNat
    else .bytes [r0, r1]
  | _, _ => .unit

/-- A frame of R71 for an instance that drives `p`. -/
def listedFrame (p : PotIndex) (tx : List Byte) : Prop :=
  tx = incrBytes p ∨ tx = decrBytes p ∨ tx = getBytes p ∨ tx = readTconBytes ∨ tx = readStatusBytes ∨
  (∃ v, v ≤ 256 ∧ tx = setBytes p v) ∨ (∃ n, tx = writeTconBytes n)

/-- The events of the bus, as against those of the chip-select line. -/
def busEvent : Event → Bool
  | .exchange _ _ => true
  | .exchangeFail _ => true
  | .csAssert => false
  | .csDeassert => false

/-- The reference device with its TCON byte replaced. -/
def withTcon (d : RefDevice) (b : Byte) : RefDevice := { d with tcon := b }

/-- The state with an earlier history put before its own. -/
def withPast (s : State) (evs : List Event) (vs : List Verdict) : State :=
  { s with events := evs ++ s.events, verdicts := vs ++ s.verdicts }

end Sys2Proof.Claims

open Sys2Proof Sys2Proof.Machine Sys2Proof.Claims

/-! ### Reset and the invariants -/

/-- R138, R139: what construction leaves. -/
def Obligations.ConstructionLeavesTheResetState : Prop :=
  ∀ c : Cfg, (State.construct c).blk.cfg = c ∧ (State.construct c).blk.selCount = 0 ∧
    (State.construct c).blk.csAsserted = false ∧ (State.construct c).blk.phase = .idle ∧
    (State.construct c).blk.faulted = false ∧ (State.construct c).events = [] ∧ (State.construct c).verdicts = []

/-- The invariants below hold of every constructed instance, alone or with a second one on its chip, and of the reset
state (whose configuration is the model's choice, log 1). -/
def Obligations.ConstructionMeetsTheInvariants : Prop :=
  (∀ c : Cfg, c.wf = true → (State.construct c).Settled ∧ (State.construct c).HistoryInOrder ∧
    (State.construct c).DrivesTheLine) ∧
  (∀ c d : Cfg, c.wf = true → d.wf = true →
    (State.constructPair c d).Settled ∧ (State.constructPair c d).HistoryInOrder) ∧
  State.reset.Settled ∧ State.reset.HistoryInOrder ∧ State.reset.DrivesTheLine

/-- R23, R24, R37: every step keeps, for both instances, that the line agrees with the counter, that an unfaulted
instance is idle between operations, and that the counter fits its width. -/
def Obligations.StepKeepsSettled : Prop :=
  ∀ s t : State, s.Settled → step s = .next t → t.Settled

/-- R13, R144: every step keeps the history in order, also with two instances on the chip: every exchange is made while
the line is asserted, and every answer has the frame's length. That an exchange on a line the other instance has released
stops the run is the model's reading (log 11). -/
def Obligations.StepKeepsTheHistoryInOrder : Prop :=
  ∀ s t : State, s.Settled → s.HistoryInOrder → step s = .next t → t.HistoryInOrder

/-- R23, R95: every step of an instance alone on its chip keeps that the line stands where the instance drives it, and
that chip select goes up and down in turn. -/
def Obligations.StepKeepsTheLineInTurn : Prop :=
  ∀ s t : State, s.Settled → s.DrivesTheLine → step s = .next t → t.DrivesTheLine

/-- R12, R133: an instance alone on its chip, with the real device, serves every instruction it is asked for, by name or
by the bytes of a frame: no step of it stops. That frames can be asked for alone is the model's choice (log 7). -/
def Obligations.SingleInstanceNeverStops : Prop :=
  ∀ (s : State) (o : Order) (i : Instr) (rest : List Request) (answers : List Answer), s.DrivesTheLine →
    s.link = .real answers → s.inbox = { slot := .first, order := o } :: rest →
    (o = .call i ∨ ∃ bytes, o = .frame bytes ∧ decode bytes = .ok (i, [])) → ∃ t, step s = .next t

/-- R10, R21, R37: no instruction changes the configuration, the other instance, or the requests still pending. -/
def Obligations.ConfigurationAndOtherInstanceUntouched : Prop :=
  ∀ (i : Instr) (s t : State), exec i s = .next t →
    t.blk.cfg = s.blk.cfg ∧ t.second = s.second ∧ t.inbox = s.inbox

/-- R39: every instruction but `select` and `deselect` leaves `sel_count` as it found it, unless it faults. -/
def Obligations.CounterIsLeftAsFound : Prop :=
  ∀ (i : Instr) (s t : State), i ≠ .select → i ≠ .deselect → exec i s = .next t → t.blk.faulted = false →
    t.blk.selCount = s.blk.selCount

/-- R95, R57: an instruction other than `select` and `deselect` that ends without a fault emits one `CsAssert` and one
`CsDeassert` around at most two exchanges when it starts from `sel_count = 0` (and exchanges at all or is served), and
none when it starts from `sel_count >= 1`; one that does not use the bus emits nothing. That frames and codec functions
can be asked for alone is the model's choice (log 7). -/
def Obligations.OneAssertionAroundAllExchanges : Prop :=
  ∀ (i : Instr) (s t : State), i ≠ .select → i ≠ .deselect → s.ready = true → exec i s = .next t →
    t.blk.faulted = false →
    ∃ evs : List Event, evs.length ≤ 2 ∧ (∀ e ∈ evs, busEvent e = true) ∧
      t.events = s.events ++
        (if i.usesBus = false then []
         else if s.blk.selCount = 0 then [.csAssert] ++ evs ++ [.csDeassert] else evs)

/-- R42, R71: a host operation sends the frames of R71 for its instance and no others. -/
def Obligations.HostOperationsSendListedFramesOnly : Prop :=
  ∀ (i : Instr) (s t : State), hostOperation i = true → exec i s = .next t →
    ∃ evs : List Event, t.events = s.events ++ evs ∧
      ∀ e ∈ evs, ∀ tx, e.sent = some tx → listedFrame s.blk.cfg.potIndex tx

/-- R125: with the unbounded counter, an instance becomes faulted only by an unmatched `deselect` or by an answer of the
wrong length. -/
def Obligations.FaultsComeOnlyFromTwoCauses : Prop :=
  ∀ (i : Instr) (s t : State), s.blk.cfg.selWidth = none → s.blk.faulted = false → exec i s = .next t →
    t.blk.faulted = true →
    (i = .deselect ∧ s.blk.selCount = 0 ∧ t.verdicts = s.verdicts ++ [.fault .deselectUnderflow]) ∨
    t.verdicts = s.verdicts ++ [.fault .rxLengthMismatch]

/-- R12, R127: a request ends in exactly one outcome: a response, a fault or a refusal. The record of outcomes is the model's
own (log 12). -/
def Obligations.EveryRequestEndsInOneOutcome : Prop :=
  ∀ (i : Instr) (s t : State), exec i s = .next t → ∃ v, t.verdicts = s.verdicts ++ [v]

/-- R25, R125: "No fault bit is ever cleared", and a faulted instance emits no event and changes nothing of itself or of
the bus, whatever is asked of it. -/
def Obligations.FaultedInstanceStaysAsItIs : Prop :=
  ∀ (i : Instr) (s t : State), s.blk.faulted = true → exec i s = .next t →
    t.blk = s.blk ∧ t.events = s.events ∧ t.link = s.link ∧ t.draws = s.draws ∧ t.second = s.second

/-- R27, R28: the block keeps nothing of earlier exchanges: an earlier history changes nothing of what an instruction
does. -/
def Obligations.EarlierHistoryHasNoInfluence : Prop :=
  ∀ (i : Instr) (s t : State) (evs : List Event) (vs : List Verdict), exec i s = .next t →
    exec i (withPast s evs vs) = .next (withPast t evs vs)

/-! ### Requests that are not admitted -/

/-- R126: a request to an instance that is not ready "emits no event, changes no state". The codec, which is no request
of the instance (R82), is not meant; nor is a negative `set`, refused before (log 10). That frames can be asked for alone,
and are admitted as host operations are, is the model's choice (log 7). -/
def Obligations.NotReadyRequestsChangeNothing : Prop :=
  ∀ (i : Instr) (s : State), (i.usesBus = true ∨ i = .maxValue) → s.ready = false →
    exec i s = .next { s with verdicts := s.verdicts ++ [.denied .notReady] }

/-- R126, R102: a negative `set` is refused `NegativeValue`. That it is so also when the instance is not ready, where R126 has
`NotReady` as well and R127 does not order the two, is the model's choice (log 10). -/
def Obligations.NegativeSetIsRefused : Prop :=
  ∀ (v : Int) (s : State), v < 0 →
    exec (.set v) s = .next { s with verdicts := s.verdicts ++ [.denied .negativeValue] }

/-! ### The codec -/

/-- R82, R83: `BuildFrame` in every state: the frame by R83's pseudocode, in numbers, and nothing else. That the codec can be
asked for alone, its value recorded as an outcome, is the model's choice (log 7). -/
def Obligations.BuildFrameGivesTheFrame : Prop :=
  ∀ (a : U4) (c : Command) (data : Option U9) (s : State),
    exec (.buildFrame a c data) s = .next { s with verdicts := s.verdicts ++ [.ok (.bytes
      (match data with
       | none => [BitVec.ofNat 8 (16 * a.toNat + 4 * c.code.toNat + 2)]
       | some v => [BitVec.ofNat 8 (16 * a.toNat + 4 * c.code.toNat + 2 + (if v = 0x100#9 ∨ v = 0x1FF#9 then 1 else 0)),
                    BitVec.ofNat 8 (v.toNat % 256)]))] }

/-- R82, R84, R85: `DecodeWiper` and `DecodeRegByte` in every state. That the codec can be asked for alone, its value recorded
as an outcome, is the model's choice (log 7). -/
def Obligations.DecodersGiveTheirValues : Prop :=
  ∀ (r0 r1 : Byte) (s : State),
    exec (.decodeWiper r0 r1) s = .next { s with verdicts := s.verdicts ++ [.ok (.nat (positionOf r0 r1))] } ∧
    exec (.decodeRegByte r0 r1) s = .next { s with verdicts := s.verdicts ++ [.ok (.nat r1.toNat)] }

/-- R86: the frame invariants of `BuildFrame`. -/
def Obligations.BuildFrameInvariants : Prop :=
  ∀ (a : U4) (c : Command) (data : Option U9), ∃ (b : Byte) (rest : List Byte),
    buildFrame a c data = b :: rest ∧ b[1] = true ∧ b.extractLsb' 4 4 = a ∧ b.extractLsb' 2 2 = c.code ∧
    (rest = [] ↔ data = none) ∧ (b[0] = true ↔ data = some 0x100#9 ∨ data = some 0x1FF#9)

/-- R87: a WRITE frame echoed back decodes to its data exactly for 0..256 and 0x1FF; for 257..510 it decodes to the low
byte. -/
def Obligations.EchoedWriteRoundTrips : Prop :=
  ∀ (a : U4) (v : U9), ∃ r0 r1 : Byte, buildFrame a .write (some v) = [r0, r1] ∧
    (v.toNat ≤ 256 ∨ v = 0x1FF#9 → decodeWiper r0 r1 = v) ∧
    (257 ≤ v.toNat ∧ v.toNat ≤ 510 → decodeWiper r0 r1 = (v.setWidth 8).setWidth 9 ∧ decodeWiper r0 r1 ≠ v)

/-! ### The wiper operations -/

/-- R98: `max_value` returns the table's value, selects nothing and emits nothing. -/
def Obligations.MaxValueReturnsTheTable : Prop :=
  ∀ s : State, s.ready = true →
    exec .maxValue s = .next { s with verdicts := s.verdicts ++ [.ok (.nat (maxByTable s.blk.cfg))] }

/-- R100, R101: `increment` and `decrement` send their one frame inside one selection; the response is ignored. -/
def Obligations.IncrementAndDecrementSendOneFrame : Prop :=
  ∀ (s : State) (r : Byte) (l : Link) (n : Nat), s.CanRun →
    (s.link.exchange (incrBytes s.blk.cfg.potIndex) s.draws = (.received [r], l, n) →
      exec .increment s = .next (s.ran l n [.exchange (incrBytes s.blk.cfg.potIndex) [r]] (.ok .unit))) ∧
    (s.link.exchange (decrBytes s.blk.cfg.potIndex) s.draws = (.received [r], l, n) →
      exec .decrement s = .next (s.ran l n [.exchange (decrBytes s.blk.cfg.potIndex) [r]] (.ok .unit)))

/-- R102: `set` sends `min(value, max_value())`. -/
def Obligations.SetSendsTheClampedValue : Prop :=
  ∀ (s : State) (value : Nat) (r0 r1 : Byte) (l : Link) (n : Nat), s.CanRun →
    s.link.exchange (setBytes s.blk.cfg.potIndex (min value (maxByTable s.blk.cfg))) s.draws =
      (.received [r0, r1], l, n) →
    exec (.set value) s = .next (s.ran l n
      [.exchange (setBytes s.blk.cfg.potIndex (min value (maxByTable s.blk.cfg))) [r0, r1]] (.ok .unit))

/-- R103, R84: `get` returns the decoded position, not clamped, or the failure with no result. -/
def Obligations.GetReturnsTheDecodedPosition : Prop :=
  ∀ (s : State) (l : Link) (n : Nat), s.CanRun →
    (∀ r0 r1, s.link.exchange (getBytes s.blk.cfg.potIndex) s.draws = (.received [r0, r1], l, n) →
      exec .get s = .next (s.ran l n [.exchange (getBytes s.blk.cfg.potIndex) [r0, r1]]
        (.ok (.nat (positionOf r0 r1))))) ∧
    (s.link.exchange (getBytes s.blk.cfg.potIndex) s.draws = (.failed, l, n) →
      exec .get s = .next (s.ran l n [.exchangeFail (getBytes s.blk.cfg.potIndex)] .transportFailure))

/-- R121: a one-frame host operation whose exchange fails: one `ExchangeFail`, the guards' `Deselect`, the counter as it
was, `Err(TransportFailure)`. -/
def Obligations.FailedExchangeEndsOneFrameOperations : Prop :=
  ∀ (i : Instr) (s : State) (tx : List Byte) (l : Link) (n : Nat), s.CanRun → oneFrame s.blk.cfg i = some tx →
    s.link.exchange tx s.draws = (.failed, l, n) →
    exec i s = .next (s.ran l n [.exchangeFail tx] .transportFailure)

/-- R92, R125: an answer of another length faults the instance: no exchange event, no `Deselect`, both selections still
held, the line asserted (vector V-FR-4). That the phase stays `Busy` is the model's reading (log 9), and the position in it
the model's own count (log 8). -/
def Obligations.WrongLengthAnswerFaults : Prop :=
  ∀ (i : Instr) (s : State) (tx rx : List Byte) (l : Link) (n : Nat), s.CanRun → oneFrame s.blk.cfg i = some tx →
    s.link.exchange tx s.draws = (.received rx, l, n) → rx.length ≠ tx.length →
    exec i s = .next (s.stuck i 2 2 l n [] .rxLengthMismatch)

/-! ### The control register and the status register -/

/-- R106, R108 to R110, R114, R33: each TCON setter reads TCON, changes its one bit, and writes the byte back, inside one
selection. -/
def Obligations.TconSettersWriteBackOneBit : Prop :=
  ∀ (i : Instr) (s : State) (base : Nat) (v : Bool) (r0 r1 q0 q1 : Byte) (l m : Link) (n k : Nat), s.CanRun →
    setterOf i = some (base, v) →
    s.link.exchange readTconBytes s.draws = (.received [r0, r1], l, n) →
    l.exchange (writeTconBytes (withBit r1 (flagBit s.blk.cfg.potIndex base) v)) n = (.received [q0, q1], m, k) →
    exec i s = .next (s.ran m k
      [.exchange readTconBytes [r0, r1],
       .exchange (writeTconBytes (withBit r1 (flagBit s.blk.cfg.potIndex base) v)) [q0, q1]] (.ok .unit))

/-- R119: a TCON setter whose READ fails sends no WRITE. -/
def Obligations.FailedReadSendsNoWrite : Prop :=
  ∀ (i : Instr) (s : State) (b : Nat × Bool) (l : Link) (n : Nat), s.CanRun → setterOf i = some b →
    s.link.exchange readTconBytes s.draws = (.failed, l, n) →
    exec i s = .next (s.ran l n [.exchangeFail readTconBytes] .transportFailure)

/-- R119, R123: a TCON setter whose WRITE fails has completed its READ. -/
def Obligations.FailedWriteFollowsItsRead : Prop :=
  ∀ (i : Instr) (s : State) (base : Nat) (v : Bool) (r0 r1 : Byte) (l m : Link) (n k : Nat), s.CanRun →
    setterOf i = some (base, v) →
    s.link.exchange readTconBytes s.draws = (.received [r0, r1], l, n) →
    l.exchange (writeTconBytes (withBit r1 (flagBit s.blk.cfg.potIndex base) v)) n = (.failed, m, k) →
    exec i s = .next (s.ran m k
      [.exchange readTconBytes [r0, r1],
       .exchangeFail (writeTconBytes (withBit r1 (flagBit s.blk.cfg.potIndex base) v))] .transportFailure)

/-- R92, R125: a TCON setter whose READ, or whose WRITE, is answered with another length than 2 faults the instance with
both selections held; after a wrong READ answer no WRITE is sent. That the phase stays `Busy` is the model's reading
(log 9), and the position in it the model's own count (log 8). -/
def Obligations.WrongLengthAnswerFaultsSetters : Prop :=
  ∀ (i : Instr) (s : State) (base : Nat) (v : Bool) (rx : List Byte) (l m : Link) (n k : Nat), s.CanRun →
    setterOf i = some (base, v) → rx.length ≠ 2 →
    (s.link.exchange readTconBytes s.draws = (.received rx, l, n) →
      exec i s = .next (s.stuck i 2 2 l n [] .rxLengthMismatch)) ∧
    (∀ r0 r1, s.link.exchange readTconBytes s.draws = (.received [r0, r1], l, n) →
      l.exchange (writeTconBytes (withBit r1 (flagBit s.blk.cfg.potIndex base) v)) n = (.received rx, m, k) →
      exec i s = .next (s.stuck i 5 2 m k [.exchange readTconBytes [r0, r1]] .rxLengthMismatch))

/-- R107, R111 to R113, R115: each TCON getter returns its one bit of the second received byte, `get_shutdown_status`
its negation; or the failure. -/
def Obligations.TconGettersReturnTheirBit : Prop :=
  ∀ (i : Instr) (s : State) (base : Nat) (inverted : Bool) (l : Link) (n : Nat), s.CanRun →
    getterOf i = some (base, inverted) →
    (∀ r0 r1, s.link.exchange readTconBytes s.draws = (.received [r0, r1], l, n) →
      exec i s = .next (s.ran l n [.exchange readTconBytes [r0, r1]]
        (.ok (.bool (r1.getLsbD (flagBit s.blk.cfg.potIndex base) != inverted))))) ∧
    (s.link.exchange readTconBytes s.draws = (.failed, l, n) →
      exec i s = .next (s.ran l n [.exchangeFail readTconBytes] .transportFailure))

/-- R116: `get_hardware_shutdown_status` returns STATUS bit 1, for both potentiometers; or the failure. -/
def Obligations.HardwareShutdownIsStatusBitOne : Prop :=
  ∀ (s : State) (l : Link) (n : Nat), s.CanRun →
    (∀ r0 r1, s.link.exchange readStatusBytes s.draws = (.received [r0, r1], l, n) →
      exec .getHardwareShutdownStatus s =
        .next (s.ran l n [.exchange readStatusBytes [r0, r1]] (.ok (.bool r1[1])))) ∧
    (s.link.exchange readStatusBytes s.draws = (.failed, l, n) →
      exec .getHardwareShutdownStatus s = .next (s.ran l n [.exchangeFail readStatusBytes] .transportFailure))

/-! ### Selection -/

/-- R90, R96: `select` counts up and asserts the line on the 0→1 transition only. -/
def Obligations.SelectCountsUp : Prop :=
  ∀ s : State, s.ready = true → s.blk.cfg.fits (s.blk.selCount + 1) = true →
    exec .select s = .next { s with
      blk := { s.blk with
        selCount := s.blk.selCount + 1
        csAsserted := if s.blk.selCount = 0 then true else s.blk.csAsserted }
      events := s.events ++ (if s.blk.selCount = 0 then [.csAssert] else [])
      verdicts := s.verdicts ++ [.ok .unit] }

/-- R91, R97: `deselect` counts down and releases the line on the 1→0 transition only. -/
def Obligations.DeselectCountsDown : Prop :=
  ∀ s : State, s.ready = true → 1 ≤ s.blk.selCount →
    exec .deselect s = .next { s with
      blk := { s.blk with
        selCount := s.blk.selCount - 1
        csAsserted := if s.blk.selCount = 1 then false else s.blk.csAsserted }
      events := s.events ++ (if s.blk.selCount = 1 then [.csDeassert] else [])
      verdicts := s.verdicts ++ [.ok .unit] }

/-- R91, R97, R125: `deselect` at `sel_count = 0` is `fault DeselectUnderflow`: no event, the fault mark set. That the
phase stays `Busy` is the model's reading (log 9), and position 0 in it the model's own count (log 8). -/
def Obligations.UnmatchedDeselectFaults : Prop :=
  ∀ s : State, s.ready = true → s.blk.selCount = 0 →
    exec .deselect s = .next { s with
      blk := { s.blk with phase := .busy .deselect 0, faulted := true }
      verdicts := s.verdicts ++ [.fault .deselectUnderflow] }

/-- R90, R125: `select` past a finite counter width is `fault SelectOverflow`. R90 and I12 give the fault alone: that the
counter keeps its value is the model's choice (log 13), that the phase stays `Busy` the model's reading (log 9), and position
0 in it the model's own count (log 8). -/
def Obligations.SelectPastTheWidthFaults : Prop :=
  ∀ s : State, s.ready = true → s.blk.cfg.fits (s.blk.selCount + 1) = false → 1 ≤ s.blk.selCount →
    exec .select s = .next { s with
      blk := { s.blk with phase := .busy .select 0, faulted := true }
      verdicts := s.verdicts ++ [.fault .selectOverflow] }

/-- R90, R95, R125: with a finite counter width that holds one more selection but not two, a bus operation faults
`SelectOverflow` at its inner `Select`, having sent no frame and given nothing back. That the overflowing `Select` leaves the
counter as it is, so that exactly the outer selection stays counted, is the model's choice (log 13); that the phase stays
`Busy` is the model's reading (log 9), and the position in it the model's own count (log 8). The outer `Select` on a full
counter is OuterSelectPastTheWidthFaults. -/
def Obligations.InnerSelectPastTheWidthFaults : Prop :=
  ∀ (i : Instr) (s : State), s.ready = true → s.blk.lineAgrees → s.blk.cfg.fits (s.blk.selCount + 1) = true →
    s.blk.cfg.fits (s.blk.selCount + 2) = false → hostOperation i = true → i.usesBus = true → i ≠ .select →
    i ≠ .deselect → exec i s = .next (s.stuck i 1 1 s.link s.draws [] .selectOverflow)

/-- R90, R93, R125: inside a selection, with a finite counter width that holds no more, a bus operation or a frame row faults
`SelectOverflow` at its outer `Select`, having sent nothing. R90 and I12 give the fault alone: that the counter keeps its
value is the model's choice (log 13), that the phase stays `Busy` the model's reading (log 9), position 0 in it the model's
own count (log 8), and that a frame can be requested by itself the model's choice (log 7). A frame the reference device would
refuse does not come to it. -/
def Obligations.OuterSelectPastTheWidthFaults : Prop :=
  ∀ (i : Instr) (s : State), s.ready = true → s.blk.cfg.fits (s.blk.selCount + 1) = false → 1 ≤ s.blk.selCount →
    i.exchanges = true → exec i s = .next { s with
      blk := { s.blk with phase := .busy i 0, faulted := true }
      verdicts := s.verdicts ++ [.fault .selectOverflow] }

/-! ### The frame rows -/

/-- R71, R75, R93: each emitted frame row sends exactly its bytes of R71 inside one selection, and its result is what R75
reads from the response. That a frame can be requested by itself is the model's choice (log 7). -/
def Obligations.EmittedFramesSendTheirBytes : Prop :=
  ∀ (i : Instr) (s : State) (tx rx : List Byte) (l : Link) (n : Nat), s.CanRun → emittedBytes i = some tx →
    s.link.exchange tx s.draws = (.received rx, l, n) → rx.length = tx.length →
    exec i s = .next (s.ran l n [.exchange tx rx] (.ok (frameResult i rx)))

/-- R60, R75, R93: each generic frame row the device admits sends the bits it is written with. That a generic WRITE or READ
carries its nine data bits as they stand on the wire, also 0x101 to 0x1FE, whose bit 8 R66 and R83 drop, is the model's
choice (log 14). That a frame can be requested by itself, and that a READ of an address that names no register delivers the
received bytes, is the model's choice too (log 7). -/
def Obligations.GenericFramesSendTheirBits : Prop :=
  ∀ (a : U4) (data : U9) (s : State) (rx : List Byte) (l : Link) (n : Nat), s.CanRun →
    ∀ i tx, (i = .write a data ∧
          tx = [BitVec.ofNat 8 (16 * a.toNat + 2 + data.toNat / 256), BitVec.ofNat 8 (data.toNat % 256)]) ∨
        (i = .read a data ∧
          tx = [BitVec.ofNat 8 (16 * a.toNat + 14 + data.toNat / 256), BitVec.ofNat 8 (data.toNat % 256)]) ∨
        (i = .incr a ∧ tx = [BitVec.ofNat 8 (16 * a.toNat + 6)]) ∨
        (i = .decr a ∧ tx = [BitVec.ofNat 8 (16 * a.toNat + 10)]) →
      s.link.admits tx = true → s.link.exchange tx s.draws = (.received rx, l, n) → rx.length = tx.length →
      exec i s = .next (s.ran l n [.exchange tx rx] (.ok (frameResult i rx)))

/-- R121, R92: a frame row the transport fails, or answers with another length. That a frame can be requested by itself is
the model's choice (log 7), that a generic WRITE or READ sends its nine data bits as they stand is its choice (log 14), that
the phase stays `Busy` after the fault is the model's reading (log 9), and the position in it is the model's own count
(log 8). -/
def Obligations.FrameRowsFailAndFault : Prop :=
  ∀ (i : Instr) (s : State) (tx : List Byte) (l : Link) (n : Nat), s.CanRun → i.wf = true → encode i = some tx →
    s.link.admits tx = true →
    (s.link.exchange tx s.draws = (.failed, l, n) →
      exec i s = .next (s.ran l n [.exchangeFail tx] .transportFailure)) ∧
    (∀ rx, s.link.exchange tx s.draws = (.received rx, l, n) → rx.length ≠ tx.length →
      exec i s = .next (s.stuck i 1 1 l n [] .rxLengthMismatch))

/-- R93, R95, R75: a frame row is a single `Transfer` and needs room for one selection only: it runs, fails and faults so also
on a counter that holds one more selection but not two, where a host operation overflows (InnerSelectPastTheWidthFaults).
That a frame can be requested by itself, and that a READ of an address that names no register delivers the received bytes, is
the model's choice (log 7), as is that a generic WRITE or READ sends its nine data bits as they stand (log 14); that the
phase stays `Busy` after the fault is the model's reading (log 9), and the position in it is the model's own count (log 8). -/
def Obligations.FrameRowsRunWithRoomForOneSelection : Prop :=
  ∀ (i : Instr) (s : State) (tx : List Byte) (l : Link) (n : Nat), s.CanSelect → i.wf = true → encode i = some tx →
    s.link.admits tx = true →
    (∀ rx, s.link.exchange tx s.draws = (.received rx, l, n) → rx.length = tx.length →
      exec i s = .next (s.ran l n [.exchange tx rx] (.ok (frameResult i rx)))) ∧
    (s.link.exchange tx s.draws = (.failed, l, n) →
      exec i s = .next (s.ran l n [.exchangeFail tx] .transportFailure)) ∧
    (∀ rx, s.link.exchange tx s.draws = (.received rx, l, n) → rx.length ≠ tx.length →
      exec i s = .next (s.stuck i 1 1 l n [] .rxLengthMismatch))

/-- R74, I4, I5: the reference device refuses frames at addresses with no register, WRITE, INCREMENT and DECREMENT to
STATUS, INCREMENT and DECREMENT to TCON, and READ with data other than 0x1FF: the run stops. That the READ data is looked
at, which R130's pseudocode does not do, and that the stop comes before anything is sent, is the model's deduction (log 6).
A frame comes to the device only where its `Select` has room (R90); without room it faults (OuterSelectPastTheWidthFaults).
That a frame can be requested by itself is the model's choice (log 7). The decoder refuses the INCREMENT and DECREMENT
frames with `D8 = 1` of R74 (b), which are no row of the table. -/
def Obligations.DeviceRefusesUnlistedFrames : Prop :=
  ∀ (a : U4) (data : U9) (s : State) (d : RefDevice) (fails : List Bool), s.ready = true →
    s.blk.cfg.fits (s.blk.selCount + 1) = true → s.link = .reference d fails →
    (a ≠ 0x0#4 → a ≠ 0x1#4 → exec (.incr a) s = .refused .deviceRefusesFrame ∧
      exec (.decr a) s = .refused .deviceRefusesFrame) ∧
    (a ≠ 0x0#4 → a ≠ 0x1#4 → a ≠ 0x4#4 → exec (.write a data) s = .refused .deviceRefusesFrame) ∧
    ((a ≠ 0x0#4 ∧ a ≠ 0x1#4 ∧ a ≠ 0x4#4 ∧ a ≠ 0x5#4) ∨ data ≠ 0x1FF#9 →
      exec (.read a data) s = .refused .deviceRefusesFrame)

/-! ### The reference device -/

/-- R130: what the reference device answers to each frame of R71, and what it becomes. -/
def Obligations.ReferenceDeviceAnswers : Prop :=
  ∀ (d : RefDevice) (p : PotIndex),
    (∀ v, v ≤ 256 → d.respond (setBytes p v) = some (setBytes p v, d.setWiper p (BitVec.ofNat 9 v))) ∧
    d.respond (incrBytes p) =
      some (incrBytes p, d.setWiper p (BitVec.ofNat 9 (min ((d.wiper p).toNat + 1) (d.dmax p).toNat))) ∧
    d.respond (decrBytes p) = some (decrBytes p, d.setWiper p (BitVec.ofNat 9 ((d.wiper p).toNat - 1))) ∧
    d.respond (getBytes p) =
      some ([BitVec.ofNat 8 ((d.wiper p).toNat / 256), BitVec.ofNat 8 ((d.wiper p).toNat % 256)], d) ∧
    (∀ n, d.respond (writeTconBytes n) = some (writeTconBytes n, withTcon d n)) ∧
    d.respond readTconBytes = some ([0x00#8, d.tcon], d) ∧
    d.respond readStatusBytes = some ([0x00#8, d.status], d)

/-- R124: after a failed exchange only the register the frame addresses may differ; the saturation bounds never do. What that
register then holds is a free value (log 4), and nothing is said of it. -/
def Obligations.FailureDisturbsOnlyTheAddressedRegister : Prop :=
  ∀ (d : RefDevice) (rest : List Bool) (c : Byte) (tail : List Byte) (n : Nat), ∃ d' : RefDevice,
    (Link.reference d (true :: rest)).exchange (c :: tail) n = (.failed, .reference d' rest, n + 1) ∧
    (c.extractLsb' 4 4 ≠ 0x0#4 → d'.wiper0 = d.wiper0) ∧ (c.extractLsb' 4 4 ≠ 0x1#4 → d'.wiper1 = d.wiper1) ∧
    (c.extractLsb' 4 4 ≠ 0x4#4 → d'.tcon = d.tcon) ∧ (c.extractLsb' 4 4 ≠ 0x5#4 → d'.status = d.status) ∧
    d'.dmax0 = d.dmax0 ∧ d'.dmax1 = d.dmax1

/-- R133, R125: on a reference device behind a transport that does not fail, every host operation an unfaulted idle
instance is asked for completes with `Ok`, except an unmatched `deselect` and a negative `set`; and all but `select` and
`deselect` leave the block as it was. -/
def Obligations.HostOperationsCompleteOnTheReferenceDevice : Prop :=
  ∀ (i : Instr) (s : State) (d : RefDevice), s.CanRun → s.link = .reference d [] → hostOperation i = true →
    (∀ v, i = .set v → 0 ≤ v) → (i = .deselect → 1 ≤ s.blk.selCount) →
    ∃ t r, exec i s = .next t ∧ t.verdicts = s.verdicts ++ [.ok r] ∧
      (i ≠ .select → i ≠ .deselect → t.blk = s.blk)

/-- R104: on the reference device `set(value)`, `get()` returns `min(value, max_value())` for every value;
`set(0)`, `decrement()`, `get()` returns 0; and `set(max_value())`, `increment()`, `get()` returns `max_value()`, the
device's bound being the instance's (R130). -/
def Obligations.SetGetLawOnTheReferenceDevice : Prop :=
  ∀ (s : State) (d : RefDevice), s.CanRun → s.link = .reference d [] →
    (∀ value : Nat, ∃ t u, exec (.set value) s = .next t ∧ exec .get t = .next u ∧
      u.verdicts = s.verdicts ++ [.ok .unit, .ok (.nat (min value (maxByTable s.blk.cfg)))]) ∧
    (∃ t u w, exec (.set 0) s = .next t ∧ exec .decrement t = .next u ∧ exec .get u = .next w ∧
      w.verdicts = s.verdicts ++ [.ok .unit, .ok .unit, .ok (.nat 0)]) ∧
    ((d.dmax s.blk.cfg.potIndex).toNat = maxByTable s.blk.cfg →
      ∃ t u w, exec (.set (maxByTable s.blk.cfg)) s = .next t ∧ exec .increment t = .next u ∧
        exec .get u = .next w ∧
        w.verdicts = s.verdicts ++ [.ok .unit, .ok .unit, .ok (.nat (maxByTable s.blk.cfg))])

/-- R117, R118: on the reference device each setter followed by its getter returns the argument, and the setter changes
no register bit but its own: TCON keeps its other seven bits, and the wipers and STATUS stay. -/
def Obligations.ReadModifyWriteIsIsolated : Prop :=
  ∀ (s : State) (d : RefDevice) (b : Bool), s.CanRun → s.link = .reference d [] →
    ∀ (setter getter : Instr) (base : Nat) (v : Bool),
      (setter = .setTerminalAStatus b ∧ getter = .getTerminalAStatus ∧ base = 2 ∧ v = b) ∨
      (setter = .setTerminalBStatus b ∧ getter = .getTerminalBStatus ∧ base = 0 ∧ v = b) ∨
      (setter = .setWiperStatus b ∧ getter = .getWiperStatus ∧ base = 1 ∧ v = b) ∨
      (setter = .setShutdownStatus b ∧ getter = .getShutdownStatus ∧ base = 3 ∧ v = !b) →
      ∃ t u, exec setter s = .next t ∧ exec getter t = .next u ∧
        u.verdicts = s.verdicts ++ [.ok .unit, .ok (.bool b)] ∧
        ∃ tcon : Byte, t.link = .reference (withTcon d tcon) [] ∧
          tcon.getLsbD (flagBit s.blk.cfg.potIndex base) = v ∧
          ∀ j, j ≠ flagBit s.blk.cfg.potIndex base → tcon.getLsbD j = d.tcon.getLsbD j

/-! ### Encoding -/

/-- Decoding gives back every well-formed frame row at every operand, whatever bytes follow it. That a frame of R71 decodes
to its emitted row, and not to the generic row that has the same bytes, and that a generic WRITE or READ keeps its nine data
bits, is the model's choice (log 14). -/
def Obligations.DecodeOfEncodeIsTheInstruction : Prop :=
  ∀ (i : Instr) (bs rest : List Byte), i.wf = true → encode i = some bs → decode (bs ++ rest) = .ok (i, rest)

/-- Each byte sequence has one meaning: what decodes is well formed, and encodes to the bytes that were read. Which of two
rows with the same bytes it is, and that a generic WRITE or READ keeps its nine data bits, is the model's choice (log 14). -/
def Obligations.EncodeOfDecodeIsTheBytes : Prop :=
  ∀ (i : Instr) (bs rest : List Byte), decode bs = .ok (i, rest) →
    i.wf = true ∧ ∃ f, encode i = some f ∧ bs = f ++ rest

/-- R83, R71: every emitted frame row encodes to the bytes of R71. -/
def Obligations.EmittedRowsEncodeAsListed : Prop :=
  ∀ (i : Instr) (tx : List Byte), emittedBytes i = some tx → encode i = some tx

/-- The bytes that are no frame, refused by name: no byte, `R = 0`, an INCREMENT or DECREMENT with `D8 = 1`, a missing data
byte. That the decoder refuses them is the model's deduction (log 18): R73 calls the decode of a control byte total, R74 says
that the block never builds the frames with `R = 0` or with that `D8` and that a device model refuses them, and R72 gives the
frames their lengths. -/
def Obligations.DecoderRefusesByName : Prop :=
  decode [] = .error .empty ∧
  ∀ (b : Byte) (rest : List Byte),
    (b[1] = false → decode (b :: rest) = .error .reservedBitClear) ∧
    (b[1] = true → b[0] = true → (b.extractLsb' 2 2 = 1#2 ∨ b.extractLsb' 2 2 = 2#2) →
      decode (b :: rest) = .error .ctrlFrameWithD8) ∧
    (b[1] = true → (b.extractLsb' 2 2 = 0#2 ∨ b.extractLsb' 2 2 = 3#2) → decode [b] = .error .missingDataByte)

/-- Words written out from the encodings of R70 and R71 (and vectors V-BF-17 to V-BF-20). Which row a word of R71 decodes to,
where a generic row has the same bits, is the model's choice (log 14); that the last word decodes to none is its deduction
(log 18). -/
def Obligations.WrittenOutWordsDecode : Prop :=
  decodeTableWord 16 0b00000000_00000011 = some (.writeWiper0 256) ∧
  decodeTableWord 16 0b01100100_00010010 = some (.writeWiper1 100) ∧
  decodeTableWord 8 0b00000110 = some .incrWiper0 ∧
  decodeTableWord 8 0b00011010 = some .decrWiper1 ∧
  decodeTableWord 16 0b11111111_00001111 = some .readWiper0 ∧
  decodeTableWord 16 0b11111111_01001111 = some .readTcon ∧
  decodeTableWord 16 0b11111101_01000010 = some (.writeTcon 0xFD) ∧
  decodeTableWord 16 0b00000000_01000011 = some (.writeTcon 0x00) ∧
  decodeTableWord 16 0b11111111_01011111 = some .readStatus ∧
  decodeTableWord 16 0b11111111_11111111 = some (.read 0xF 0x1FF) ∧
  decodeTableWord 16 0b00000000_00100010 = some (.write 0x2 0) ∧
  decodeTableWord 8 0b11110110 = some (.incr 0xF) ∧
  decodeTableWord 8 0b00101010 = some (.decr 0x2) ∧
  decodeTableWord 8 0b00000111 = none

/-! ### The step -/

/-- A step runs the next request: a frame's bytes run the instruction they decode to, a call runs the instruction it
names, the rest stays pending; with no request nothing changes (log 2). The exchange on a released line, set apart by the
first hypothesis, stops by name (log 11, ExchangeOnAReleasedLineIsRefused). -/
def Obligations.StepRunsTheNextRequest : Prop :=
  ∀ (s : State) (rest : List Request) (i : Instr), s.lineLost i = false →
    (∀ bytes, s.inbox = { slot := .first, order := .frame bytes } :: rest → decode bytes = .ok (i, []) →
      step s = exec i { s with inbox := rest }) ∧
    (s.inbox = { slot := .first, order := .call i } :: rest → step s = exec i { s with inbox := rest }) ∧
    (∀ nbits w, decodeTableWord nbits w = some i → step (s.withFetchWord nbits w) = exec i s) ∧
    (s.inbox = [] → step s = .next s)

/-- Bytes that do not decode stop the run by name, by the model's deduction (log 18). -/
def Obligations.StepRefusesWhatIsNoFrame : Prop :=
  ∀ (s : State) (slot : Slot) (bytes : List Byte) (rest : List Request) (e : DecodeError),
    s.inbox = { slot := slot, order := .frame bytes } :: rest → decode bytes = .error e →
    step s = .refused (.notAFrame e)

/-- R37: a request for the second instance acts on it by the same rules, with the first as its neighbour. That requests wait
in an inbox is the model's choice (log 2); the exchange on a released line, set apart, stops by name (log 11). -/
def Obligations.SecondInstanceRunsByTheSameRules : Prop :=
  ∀ (s t : State) (b : Block) (i : Instr) (rest : List Request), s.second = some b →
    s.inbox = { slot := .second, order := .call i } :: rest →
    ({ s with blk := b, second := some s.blk } : State).lineLost i = false →
    exec i { s with blk := b, second := some s.blk, inbox := rest } = .next t →
    step s = .next { t with blk := s.blk, second := some t.blk }

/-- R146, I17, R13: an exchange inside a selection whose line the other instance has released stops the run by name, where the
counter has room for the selections before it. The stop, and the level of the shared line, are the model's deduction
(log 11); without that room, NoRoomFaultsOnAnyLine. -/
def Obligations.ExchangeOnAReleasedLineIsRefused : Prop :=
  ∀ (s : State) (b : Block) (i : Instr) (rest : List Request), s.second = some b → i.exchanges = true →
    s.csLine = false →
    (s.inbox = { slot := .first, order := .call i } :: rest → s.ready = true →
      s.blk.cfg.fits (s.blk.selCount + selectionsNeeded i) = true → s.blk.csAsserted = true →
      step s = .refused .lineReleased) ∧
    (s.inbox = { slot := .second, order := .call i } :: rest → b.phase = .idle → b.faulted = false →
      b.cfg.fits (b.selCount + selectionsNeeded i) = true → b.csAsserted = true → step s = .refused .lineReleased)

/-- R90, R95, R125: an instruction that exchanges, asked of an instance that holds a selection and whose finite counter has no
room for the selections before the first exchange, faults `SelectOverflow` wherever the shared line stands: `Select` faults
before anything is exchanged. That requests wait in an inbox is the model's choice (log 2), and so is a frame row asked for
alone (log 7). -/
def Obligations.NoRoomFaultsOnAnyLine : Prop :=
  ∀ (s : State) (b : Block) (i : Instr) (rest : List Request), s.second = some b → i.exchanges = true →
    (s.inbox = { slot := .first, order := .call i } :: rest → s.ready = true → s.blk.lineAgrees → 1 ≤ s.blk.selCount →
      s.blk.cfg.fits (s.blk.selCount + selectionsNeeded i) = false →
      ∃ t, step s = .next t ∧ t.blk.faulted = true ∧ t.events = s.events ∧ t.link = s.link ∧ t.second = some b ∧
        t.verdicts = s.verdicts ++ [.fault .selectOverflow]) ∧
    (s.inbox = { slot := .second, order := .call i } :: rest → b.phase = .idle → b.faulted = false → b.lineAgrees →
      1 ≤ b.selCount → b.cfg.fits (b.selCount + selectionsNeeded i) = false →
      ∃ t c, step s = .next t ∧ t.second = some c ∧ c.faulted = true ∧ t.events = s.events ∧ t.link = s.link ∧
        t.blk = s.blk ∧ t.verdicts = s.verdicts ++ [.fault .selectOverflow])
end

