-- ==== Sys2Proof/Laws/Decode.lean ====
section
/-! SUPPORT. The field lemmas of the encoding: each field of a built control byte reads back, a control byte is its fields,
a data value is its `D8` and data byte. -/

namespace Sys2Proof

@[simp] theorem ctrlAddress_ctrlByte : ∀ (a : U4) (c : Command) (d8 : Bool), ctrlAddress (ctrlByte a c d8) = a := by
  intro a c
  revert a
  cases c <;> decide

@[simp] theorem ctrlCommand_ctrlByte : ∀ (a : U4) (c : Command) (d8 : Bool), ctrlCommand (ctrlByte a c d8) = c := by
  intro a c
  revert a
  cases c <;> decide

@[simp] theorem ctrlReserved_ctrlByte : ∀ (a : U4) (c : Command) (d8 : Bool),
    ctrlReserved (ctrlByte a c d8) = true := by
  intro a c
  revert a
  cases c <;> decide

@[simp] theorem ctrlD8_ctrlByte : ∀ (a : U4) (c : Command) (d8 : Bool), ctrlD8 (ctrlByte a c d8) = d8 := by
  intro a c
  revert a
  cases c <;> decide

/-- A control byte with `R = 1` is made of its fields (R60: "together they cover the byte"). -/
theorem ctrlByte_of_fields : ∀ b : Byte, ctrlReserved b = true →
    ctrlByte (ctrlAddress b) (ctrlCommand b) (ctrlD8 b) = b := by
  decide

@[simp] theorem dataValue_bit8 : ∀ (d8 : Bool) (d : Byte), (dataValue d8 d)[8] = d8 := by decide

@[simp] theorem dataValue_low : ∀ (d8 : Bool) (d : Byte), (dataValue d8 d).setWidth 8 = d := by decide

/-- A data value is its `D8` and its data byte. -/
@[simp] theorem dataValue_split : ∀ v : U9, dataValue v[8] (v.setWidth 8) = v := by decide

/-- The first frame of a stream that begins with a 2-byte WRITE frame. -/
theorem decode_dataFrame_write (a : U4) (v : U9) (rest : List Byte) :
    decode (dataFrame a .write v ++ rest) = .ok (writeRow a v, rest) := by
  simp [dataFrame, decode, takeDataByte]

/-- The first frame of a stream that begins with a 2-byte READ frame. -/
theorem decode_dataFrame_read (a : U4) (v : U9) (rest : List Byte) :
    decode (dataFrame a .read v ++ rest) = .ok (readRow a v, rest) := by
  simp [dataFrame, decode, takeDataByte]

/-- The first frame of a stream that begins with an INCREMENT control byte. -/
theorem decode_increment (a : U4) (rest : List Byte) :
    decode (ctrlByte a .increment false :: rest) = .ok (incrRow a, rest) := by
  simp [decode, noDataByte]

/-- The first frame of a stream that begins with a DECREMENT control byte. -/
theorem decode_decrement (a : U4) (rest : List Byte) :
    decode (ctrlByte a .decrement false :: rest) = .ok (decrRow a, rest) := by
  simp [decode, noDataByte]

/-- Bits 7..0 of the wire data of an emitted TCON write are the byte (R67). -/
theorem tconWireData_low (n : Byte) : (tconWireData n).setWidth 8 = n := dataValue_low _ _

/-- The wire data of a TCON write is one of the emitted row's (R71). -/
theorem isTconData_tconWireData (n : Byte) : isTconData (tconWireData n) = true := by
  simp [isTconData, tconWireData]

/-- A data value of the emitted TCON row is the wire data of its low byte. -/
theorem tconWireData_of_isTconData {v : U9} (h : isTconData v = true) : tconWireData (v.setWidth 8) = v := by
  have h' : v[8] = (v.setWidth 8 == 0x00#8 || v.setWidth 8 == 0xFF#8) := by simpa [isTconData] using h
  rw [tconWireData, ← h', dataValue_split]

end Sys2Proof
end

