-- ==== Sys2Proof/Laws/State.lean ====
section
/-! SUPPORT. One lemma per field per update of State, so that no later proof unfolds a record update. -/

namespace Sys2Proof.Machine

@[simp] theorem State.emit_blk (s : State) (e : Event) : (s.emit e).blk = s.blk := rfl
@[simp] theorem State.emit_second (s : State) (e : Event) : (s.emit e).second = s.second := rfl
@[simp] theorem State.emit_link (s : State) (e : Event) : (s.emit e).link = s.link := rfl
@[simp] theorem State.emit_draws (s : State) (e : Event) : (s.emit e).draws = s.draws := rfl
@[simp] theorem State.emit_events (s : State) (e : Event) : (s.emit e).events = s.events ++ [e] := rfl
@[simp] theorem State.emit_verdicts (s : State) (e : Event) : (s.emit e).verdicts = s.verdicts := rfl
@[simp] theorem State.emit_inbox (s : State) (e : Event) : (s.emit e).inbox = s.inbox := rfl

@[simp] theorem State.conclude_blk (s : State) (v : Verdict) : (s.conclude v).blk = s.blk := rfl
@[simp] theorem State.conclude_second (s : State) (v : Verdict) : (s.conclude v).second = s.second := rfl
@[simp] theorem State.conclude_link (s : State) (v : Verdict) : (s.conclude v).link = s.link := rfl
@[simp] theorem State.conclude_draws (s : State) (v : Verdict) : (s.conclude v).draws = s.draws := rfl
@[simp] theorem State.conclude_events (s : State) (v : Verdict) : (s.conclude v).events = s.events := rfl
@[simp] theorem State.conclude_verdicts (s : State) (v : Verdict) : (s.conclude v).verdicts = s.verdicts ++ [v] := rfl
@[simp] theorem State.conclude_inbox (s : State) (v : Verdict) : (s.conclude v).inbox = s.inbox := rfl

@[simp] theorem State.setLink_blk (s : State) (l : Link) (n : Nat) : (s.setLink l n).blk = s.blk := rfl
@[simp] theorem State.setLink_second (s : State) (l : Link) (n : Nat) : (s.setLink l n).second = s.second := rfl
@[simp] theorem State.setLink_link (s : State) (l : Link) (n : Nat) : (s.setLink l n).link = l := rfl
@[simp] theorem State.setLink_draws (s : State) (l : Link) (n : Nat) : (s.setLink l n).draws = n := rfl
@[simp] theorem State.setLink_events (s : State) (l : Link) (n : Nat) : (s.setLink l n).events = s.events := rfl
@[simp] theorem State.setLink_verdicts (s : State) (l : Link) (n : Nat) : (s.setLink l n).verdicts = s.verdicts := rfl
@[simp] theorem State.setLink_inbox (s : State) (l : Link) (n : Nat) : (s.setLink l n).inbox = s.inbox := rfl

@[simp] theorem State.setPhase_cfg (s : State) (p : Phase) : (s.setPhase p).blk.cfg = s.blk.cfg := rfl
@[simp] theorem State.setPhase_selCount (s : State) (p : Phase) : (s.setPhase p).blk.selCount = s.blk.selCount := rfl
@[simp] theorem State.setPhase_csAsserted (s : State) (p : Phase) : (s.setPhase p).blk.csAsserted = s.blk.csAsserted := rfl
@[simp] theorem State.setPhase_phase (s : State) (p : Phase) : (s.setPhase p).blk.phase = p := rfl
@[simp] theorem State.setPhase_faulted (s : State) (p : Phase) : (s.setPhase p).blk.faulted = s.blk.faulted := rfl
@[simp] theorem State.setPhase_second (s : State) (p : Phase) : (s.setPhase p).second = s.second := rfl
@[simp] theorem State.setPhase_link (s : State) (p : Phase) : (s.setPhase p).link = s.link := rfl
@[simp] theorem State.setPhase_draws (s : State) (p : Phase) : (s.setPhase p).draws = s.draws := rfl
@[simp] theorem State.setPhase_events (s : State) (p : Phase) : (s.setPhase p).events = s.events := rfl
@[simp] theorem State.setPhase_verdicts (s : State) (p : Phase) : (s.setPhase p).verdicts = s.verdicts := rfl
@[simp] theorem State.setPhase_inbox (s : State) (p : Phase) : (s.setPhase p).inbox = s.inbox := rfl

@[simp] theorem State.setSelCount_cfg (s : State) (n : Nat) : (s.setSelCount n).blk.cfg = s.blk.cfg := rfl
@[simp] theorem State.setSelCount_selCount (s : State) (n : Nat) : (s.setSelCount n).blk.selCount = n := rfl
@[simp] theorem State.setSelCount_csAsserted (s : State) (n : Nat) : (s.setSelCount n).blk.csAsserted = s.blk.csAsserted := rfl
@[simp] theorem State.setSelCount_phase (s : State) (n : Nat) : (s.setSelCount n).blk.phase = s.blk.phase := rfl
@[simp] theorem State.setSelCount_faulted (s : State) (n : Nat) : (s.setSelCount n).blk.faulted = s.blk.faulted := rfl
@[simp] theorem State.setSelCount_second (s : State) (n : Nat) : (s.setSelCount n).second = s.second := rfl
@[simp] theorem State.setSelCount_link (s : State) (n : Nat) : (s.setSelCount n).link = s.link := rfl
@[simp] theorem State.setSelCount_draws (s : State) (n : Nat) : (s.setSelCount n).draws = s.draws := rfl
@[simp] theorem State.setSelCount_events (s : State) (n : Nat) : (s.setSelCount n).events = s.events := rfl
@[simp] theorem State.setSelCount_verdicts (s : State) (n : Nat) : (s.setSelCount n).verdicts = s.verdicts := rfl
@[simp] theorem State.setSelCount_inbox (s : State) (n : Nat) : (s.setSelCount n).inbox = s.inbox := rfl

@[simp] theorem State.setCs_cfg (s : State) (b : Bool) : (s.setCs b).blk.cfg = s.blk.cfg := rfl
@[simp] theorem State.setCs_selCount (s : State) (b : Bool) : (s.setCs b).blk.selCount = s.blk.selCount := rfl
@[simp] theorem State.setCs_csAsserted (s : State) (b : Bool) : (s.setCs b).blk.csAsserted = b := rfl
@[simp] theorem State.setCs_phase (s : State) (b : Bool) : (s.setCs b).blk.phase = s.blk.phase := rfl
@[simp] theorem State.setCs_faulted (s : State) (b : Bool) : (s.setCs b).blk.faulted = s.blk.faulted := rfl
@[simp] theorem State.setCs_second (s : State) (b : Bool) : (s.setCs b).second = s.second := rfl
@[simp] theorem State.setCs_link (s : State) (b : Bool) : (s.setCs b).link = s.link := rfl
@[simp] theorem State.setCs_draws (s : State) (b : Bool) : (s.setCs b).draws = s.draws := rfl
@[simp] theorem State.setCs_events (s : State) (b : Bool) : (s.setCs b).events = s.events := rfl
@[simp] theorem State.setCs_verdicts (s : State) (b : Bool) : (s.setCs b).verdicts = s.verdicts := rfl
@[simp] theorem State.setCs_inbox (s : State) (b : Bool) : (s.setCs b).inbox = s.inbox := rfl

@[simp] theorem State.enterFault_cfg (s : State) (f : Fault) : (s.enterFault f).blk.cfg = s.blk.cfg := rfl
@[simp] theorem State.enterFault_selCount (s : State) (f : Fault) : (s.enterFault f).blk.selCount = s.blk.selCount := rfl
@[simp] theorem State.enterFault_csAsserted (s : State) (f : Fault) : (s.enterFault f).blk.csAsserted = s.blk.csAsserted := rfl
@[simp] theorem State.enterFault_phase (s : State) (f : Fault) : (s.enterFault f).blk.phase = s.blk.phase := rfl
@[simp] theorem State.enterFault_faulted (s : State) (f : Fault) : (s.enterFault f).blk.faulted = true := rfl
@[simp] theorem State.enterFault_second (s : State) (f : Fault) : (s.enterFault f).second = s.second := rfl
@[simp] theorem State.enterFault_link (s : State) (f : Fault) : (s.enterFault f).link = s.link := rfl
@[simp] theorem State.enterFault_draws (s : State) (f : Fault) : (s.enterFault f).draws = s.draws := rfl
@[simp] theorem State.enterFault_events (s : State) (f : Fault) : (s.enterFault f).events = s.events := rfl
@[simp] theorem State.enterFault_verdicts (s : State) (f : Fault) : (s.enterFault f).verdicts = s.verdicts ++ [.fault f] := rfl
@[simp] theorem State.enterFault_inbox (s : State) (f : Fault) : (s.enterFault f).inbox = s.inbox := rfl

@[simp] theorem State.setInbox_blk (s : State) (r : List Request) : (s.setInbox r).blk = s.blk := rfl
@[simp] theorem State.setInbox_second (s : State) (r : List Request) : (s.setInbox r).second = s.second := rfl
@[simp] theorem State.setInbox_link (s : State) (r : List Request) : (s.setInbox r).link = s.link := rfl
@[simp] theorem State.setInbox_draws (s : State) (r : List Request) : (s.setInbox r).draws = s.draws := rfl
@[simp] theorem State.setInbox_events (s : State) (r : List Request) : (s.setInbox r).events = s.events := rfl
@[simp] theorem State.setInbox_verdicts (s : State) (r : List Request) : (s.setInbox r).verdicts = s.verdicts := rfl
@[simp] theorem State.setInbox_inbox (s : State) (r : List Request) : (s.setInbox r).inbox = r := rfl

@[simp] theorem State.tick_cfg (s : State) : (s.tick).blk.cfg = s.blk.cfg := rfl
@[simp] theorem State.tick_selCount (s : State) : (s.tick).blk.selCount = s.blk.selCount := rfl
@[simp] theorem State.tick_csAsserted (s : State) : (s.tick).blk.csAsserted = s.blk.csAsserted := rfl
@[simp] theorem State.tick_phase (s : State) : (s.tick).blk.phase = s.blk.phase.next := rfl
@[simp] theorem State.tick_faulted (s : State) : (s.tick).blk.faulted = s.blk.faulted := rfl
@[simp] theorem State.tick_second (s : State) : (s.tick).second = s.second := rfl
@[simp] theorem State.tick_link (s : State) : (s.tick).link = s.link := rfl
@[simp] theorem State.tick_draws (s : State) : (s.tick).draws = s.draws := rfl
@[simp] theorem State.tick_events (s : State) : (s.tick).events = s.events := rfl
@[simp] theorem State.tick_verdicts (s : State) : (s.tick).verdicts = s.verdicts := rfl
@[simp] theorem State.tick_inbox (s : State) : (s.tick).inbox = s.inbox := rfl

/-- Two states with equal fields are equal. -/
theorem State.eq_of_fields {s t : State} (hb : s.blk = t.blk) (h2 : s.second = t.second) (hl : s.link = t.link)
    (hd : s.draws = t.draws) (he : s.events = t.events) (hv : s.verdicts = t.verdicts) (hi : s.inbox = t.inbox) :
    s = t := by
  cases s
  cases t
  simp_all

/-- Two instances with equal fields are equal. -/
theorem Block.eq_of_fields {b c : Block} (hc : b.cfg = c.cfg) (hs : b.selCount = c.selCount)
    (ha : b.csAsserted = c.csAsserted) (hp : b.phase = c.phase) (hf : b.faulted = c.faulted) : b = c := by
  cases b
  cases c
  simp_all

/-- A ready instance is idle and unfaulted (R24). -/
theorem State.ready_iff (s : State) : s.ready = true ↔ s.blk.phase = .idle ∧ s.blk.faulted = false := by
  simp [State.ready]

end Sys2Proof.Machine
end

