-- ==== Sys2Proof/Laws/Ops.lean ====
section
/-! SUPPORT. What each shared operation can do, said once: the selection steps, the checked exchange, the transfer, the
shape of a bus operation, the serving of a request. -/

namespace Sys2Proof.Machine

/-- A counter that holds a larger count holds a smaller one. -/
theorem Cfg.fits_mono {c : Cfg} {m n : Nat} (h : c.fits n = true) (hmn : m ≤ n) : c.fits m = true := by
  unfold Cfg.fits at *
  split at h
  · rfl
  · simp only [decide_eq_true_eq] at *
    omega

/-! ### Select and Deselect -/

/-- The state `Select` leaves when the counter has room. -/
def State.selected (s : State) : State := (s.assertLine.setSelCount (s.blk.selCount + 1)).tick

/-- The state `Deselect` leaves at `sel_count >= 1`. -/
def State.deselected (s : State) : State := (s.setSelCount (s.blk.selCount - 1)).releaseLine.tick

/-- `Select` with room returns (R90). -/
theorem selectStep_ret {s : State} (hf : s.blk.cfg.fits (s.blk.selCount + 1) = true) :
    selectStep s = .ret () s.selected := by
  simp [selectStep, hf, State.selected]

/-- `Select` past the counter's width faults (R90). -/
theorem selectStep_overflow {s : State} (hf : s.blk.cfg.fits (s.blk.selCount + 1) = false) :
    selectStep s = .fault .selectOverflow s.assertLine := by
  simp [selectStep, hf]

/-- `Deselect` never faults at `sel_count >= 1` (R128). -/
theorem deselectStep_ret {s : State} (hn : s.blk.selCount ≠ 0) : deselectStep s = .ret () s.deselected := by
  simp [deselectStep, hn, State.deselected]

/-- `Deselect` at 0 faults (R91). -/
theorem deselectStep_underflow {s : State} (hn : s.blk.selCount = 0) :
    deselectStep s = .fault .deselectUnderflow s := by
  simp [deselectStep, hn]

@[simp] theorem State.selected_cfg (s : State) : s.selected.blk.cfg = s.blk.cfg := by
  simp only [State.selected, State.assertLine]; split <;> rfl
@[simp] theorem State.selected_selCount (s : State) : s.selected.blk.selCount = s.blk.selCount + 1 := rfl
@[simp] theorem State.selected_faulted (s : State) : s.selected.blk.faulted = s.blk.faulted := by
  simp only [State.selected, State.assertLine]; split <;> rfl
@[simp] theorem State.selected_phase (s : State) : s.selected.blk.phase = s.blk.phase.next := by
  simp only [State.selected, State.assertLine]; split <;> rfl
@[simp] theorem State.selected_second (s : State) : s.selected.second = s.second := by
  simp only [State.selected, State.assertLine]; split <;> rfl
@[simp] theorem State.selected_link (s : State) : s.selected.link = s.link := by
  simp only [State.selected, State.assertLine]; split <;> rfl
@[simp] theorem State.selected_draws (s : State) : s.selected.draws = s.draws := by
  simp only [State.selected, State.assertLine]; split <;> rfl
@[simp] theorem State.selected_verdicts (s : State) : s.selected.verdicts = s.verdicts := by
  simp only [State.selected, State.assertLine]; split <;> rfl
@[simp] theorem State.selected_inbox (s : State) : s.selected.inbox = s.inbox := by
  simp only [State.selected, State.assertLine]; split <;> rfl
@[simp] theorem State.selected_events (s : State) : s.selected.events = s.events ++ s.openEvents := by
  simp only [State.selected, State.assertLine, State.openEvents]; split <;> simp

/-- `Select` asserts the line on the 0→1 transition and leaves it otherwise (R90). -/
@[simp] theorem State.selected_csAsserted (s : State) :
    s.selected.blk.csAsserted = (if s.blk.selCount = 0 then true else s.blk.csAsserted) := by
  simp only [State.selected, State.assertLine]; split <;> rfl

/-- Inside a selection an operation emits no `CsAssert` (R95). -/
theorem State.openEvents_held {s : State} (h : s.blk.selCount ≠ 0) : s.openEvents = [] := by
  simp [State.openEvents, h]

@[simp] theorem State.selected_openEvents (s : State) : s.selected.openEvents = [] :=
  State.openEvents_held (by simp)

@[simp] theorem State.deselected_cfg (s : State) : s.deselected.blk.cfg = s.blk.cfg := by
  simp only [State.deselected, State.releaseLine]; split <;> rfl
@[simp] theorem State.deselected_selCount (s : State) : s.deselected.blk.selCount = s.blk.selCount - 1 := by
  simp only [State.deselected, State.releaseLine]; split <;> rfl
@[simp] theorem State.deselected_faulted (s : State) : s.deselected.blk.faulted = s.blk.faulted := by
  simp only [State.deselected, State.releaseLine]; split <;> rfl
@[simp] theorem State.deselected_phase (s : State) : s.deselected.blk.phase = s.blk.phase.next := by
  simp only [State.deselected, State.releaseLine]; split <;> rfl
@[simp] theorem State.deselected_second (s : State) : s.deselected.second = s.second := by
  simp only [State.deselected, State.releaseLine]; split <;> rfl
@[simp] theorem State.deselected_link (s : State) : s.deselected.link = s.link := by
  simp only [State.deselected, State.releaseLine]; split <;> rfl
@[simp] theorem State.deselected_draws (s : State) : s.deselected.draws = s.draws := by
  simp only [State.deselected, State.releaseLine]; split <;> rfl
@[simp] theorem State.deselected_verdicts (s : State) : s.deselected.verdicts = s.verdicts := by
  simp only [State.deselected, State.releaseLine]; split <;> rfl
@[simp] theorem State.deselected_inbox (s : State) : s.deselected.inbox = s.inbox := by
  simp only [State.deselected, State.releaseLine]; split <;> rfl

/-- `Deselect` emits `CsDeassert` on the 1→0 transition only (R91). -/
@[simp] theorem State.deselected_events (s : State) :
    s.deselected.events = s.events ++ (if s.blk.selCount - 1 = 0 then [.csDeassert] else []) := by
  by_cases h : s.blk.selCount - 1 = 0 <;> simp [State.deselected, State.releaseLine, h]

/-- `Deselect` releases the line on the 1→0 transition only (R91). -/
@[simp] theorem State.deselected_csAsserted (s : State) :
    s.deselected.blk.csAsserted = (if s.blk.selCount - 1 = 0 then false else s.blk.csAsserted) := by
  by_cases h : s.blk.selCount - 1 = 0 <;> simp [State.deselected, State.releaseLine, h]

/-! ### The shape of a bus operation -/

/-- An operation whose body returns with the selection still held (R89, R94). -/
theorem operation_ret {α : Type} {body : State → Exit α} {s t : State} {v : α}
    (hf : s.blk.cfg.fits (s.blk.selCount + 1) = true) (hb : body s.selected = .ret v t) (ht : t.blk.selCount ≠ 0) :
    operation body s = .ret v t.deselected := by
  simp [operation, selectStep_ret hf, Exit.andThen, guarded, hb, deselectStep_ret ht]

/-- An operation whose body raises: `Deselect` runs, and the failure goes on (R94, R121). -/
theorem operation_raised {α : Type} {body : State → Exit α} {s t : State}
    (hf : s.blk.cfg.fits (s.blk.selCount + 1) = true) (hb : body s.selected = .raised t) (ht : t.blk.selCount ≠ 0) :
    operation body s = .raised t.deselected := by
  simp [operation, selectStep_ret hf, Exit.andThen, guarded, hb, deselectStep_ret ht]

/-- An operation whose body faults: no `Deselect` (R94). -/
theorem operation_fault {α : Type} {body : State → Exit α} {s t : State} {f : Fault}
    (hf : s.blk.cfg.fits (s.blk.selCount + 1) = true) (hb : body s.selected = .fault f t) :
    operation body s = .fault f t := by
  simp [operation, selectStep_ret hf, Exit.andThen, guarded, hb]

/-! ### The checked exchange and the transfer -/

/-- The exchange is answered with the frame's length (R92). -/
theorem exchangeChecked_received {s : State} {tx rx : List Byte} {l : Link} {n : Nat} (hs : s.blk.selCount ≠ 0)
    (hx : s.link.exchange tx s.draws = (.received rx, l, n)) (hlen : rx.length = tx.length) :
    exchangeChecked tx s = .ret rx ((s.setLink l n).emit (.exchange tx rx)).tick := by
  simp [exchangeChecked, hs, hx, hlen]

/-- The transport fails the exchange (R92). -/
theorem exchangeChecked_failed {s : State} {tx : List Byte} {l : Link} {n : Nat} (hs : s.blk.selCount ≠ 0)
    (hx : s.link.exchange tx s.draws = (.failed, l, n)) :
    exchangeChecked tx s = .raised ((s.setLink l n).emit (.exchangeFail tx)).tick := by
  simp [exchangeChecked, hs, hx]

/-- The answer has another length (R92). -/
theorem exchangeChecked_mismatch {s : State} {tx rx : List Byte} {l : Link} {n : Nat} (hs : s.blk.selCount ≠ 0)
    (hx : s.link.exchange tx s.draws = (.received rx, l, n)) (hlen : rx.length ≠ tx.length) :
    exchangeChecked tx s = .fault .rxLengthMismatch (s.setLink l n) := by
  simp [exchangeChecked, hs, hx, hlen]

/-- A transfer that is answered (R93). -/
theorem transfer_received {s : State} {tx rx : List Byte} {l : Link} {n : Nat}
    (hf : s.blk.cfg.fits (s.blk.selCount + 1) = true) (hx : s.link.exchange tx s.draws = (.received rx, l, n))
    (hlen : rx.length = tx.length) :
    transfer tx s = .ret rx ((s.selected.setLink l n).emit (.exchange tx rx)).tick.deselected := by
  refine operation_ret hf (exchangeChecked_received ?_ ?_ hlen) ?_ <;> simp [hx]

/-- A transfer the transport fails (R93, R121). -/
theorem transfer_failed {s : State} {tx : List Byte} {l : Link} {n : Nat}
    (hf : s.blk.cfg.fits (s.blk.selCount + 1) = true) (hx : s.link.exchange tx s.draws = (.failed, l, n)) :
    transfer tx s = .raised ((s.selected.setLink l n).emit (.exchangeFail tx)).tick.deselected := by
  refine operation_raised hf (exchangeChecked_failed ?_ ?_) ?_ <;> simp [hx]

/-- A transfer answered with another length: a fault, no event, no `Deselect` (R92, R125). -/
theorem transfer_mismatch {s : State} {tx rx : List Byte} {l : Link} {n : Nat}
    (hf : s.blk.cfg.fits (s.blk.selCount + 1) = true) (hx : s.link.exchange tx s.draws = (.received rx, l, n))
    (hlen : rx.length ≠ tx.length) :
    transfer tx s = .fault .rxLengthMismatch (s.selected.setLink l n) := by
  refine operation_fault hf (exchangeChecked_mismatch ?_ ?_ hlen) <;> simp [hx]

/-! ### The end of an operation -/

/-- The last `Deselect` and the end of the operation, from any state the body may leave: the result is `State.ran`. -/
theorem close_run {s t : State} {l : Link} {n : Nat} {evs : List Event} {v : Verdict} (hr : s.ready = true)
    (hline : s.blk.lineAgrees) (hcfg : t.blk.cfg = s.blk.cfg) (hsel : t.blk.selCount = s.blk.selCount + 1)
    (hcs : t.blk.csAsserted = true) (hfa : t.blk.faulted = s.blk.faulted) (h2 : t.second = s.second)
    (hl : t.link = l) (hd : t.draws = n) (hev : t.events = s.events ++ s.openEvents ++ evs)
    (hv : t.verdicts = s.verdicts) (hin : t.inbox = s.inbox) :
    (t.deselected.setPhase .idle).conclude v = s.ran l n evs v := by
  have hphase := (State.ready_iff s).1 hr
  refine State.eq_of_fields (Block.eq_of_fields ?_ ?_ ?_ ?_ ?_) ?_ ?_ ?_ ?_ ?_ ?_
  · simpa [State.ran] using hcfg
  · simp [State.ran, hsel]
  · simp only [State.conclude_blk, State.setPhase_csAsserted, State.deselected_csAsserted, hsel, hcs,
      Nat.add_sub_cancel, State.ran, hline]
    by_cases h : s.blk.selCount = 0 <;> simp [h, Nat.pos_iff_ne_zero]
  · simp [State.ran, hphase]
  · simpa [State.ran] using hfa
  · simpa [State.ran] using h2
  · simpa [State.ran] using hl
  · simpa [State.ran] using hd
  · simp [State.ran, hev, hsel, State.closeEvents]
  · simp [State.ran, hv]
  · simpa [State.ran] using hin

/-- A request that is not admitted changes nothing but the record (R126). -/
theorem serve_notReady {s : State} {i : Instr} {body : State → Exit Result} (h : s.ready = false) :
    serve i body s = s.conclude (.denied .notReady) := by
  simp [serve, h]

/-- An accepted request runs its body from `Busy(op, 0)` (R24). -/
theorem serve_ready {s : State} {i : Instr} {body : State → Exit Result} (h : s.ready = true) :
    serve i body s = (body (s.setPhase (.busy i 0))).finish := by
  simp [serve, h]

/-- An accepted state has room for one more selection, and for two. -/
theorem State.CanRun.fits {s : State} (h : s.CanRun) :
    s.blk.cfg.fits (s.blk.selCount + 1) = true ∧ s.blk.cfg.fits (s.blk.selCount + 2) = true :=
  ⟨Cfg.fits_mono h.2.1 (by omega), h.2.1⟩

/-- Room for two selections is room for one. -/
theorem State.CanRun.canSelect {s : State} (h : s.CanRun) : s.CanSelect := ⟨h.1, h.fits.1, h.2.2⟩

/-- After `Select` at the start of an accepted request, the line is asserted. -/
theorem State.CanSelect.csAsserted {s : State} (h : s.CanSelect) (i : Instr) :
    (s.setPhase (.busy i 0)).selected.blk.csAsserted = true := by
  have hl : s.blk.csAsserted = decide (0 < s.blk.selCount) := h.2.2
  simp only [State.selected_csAsserted, State.setPhase_selCount, State.setPhase_csAsserted, hl]
  split
  · rfl
  · simp only [decide_eq_true_eq]
    omega

@[simp] theorem State.setPhase_openEvents (s : State) (p : Phase) : (s.setPhase p).openEvents = s.openEvents := rfl

/-! ### An operation of one frame -/

/-- One answered frame inside the operation's selection: the common shape of R99 and of every getter. -/
theorem serve_oneFrame_received {s : State} {i : Instr} {frame : State → List Byte} {tx rx : List Byte} {l : Link}
    {n : Nat} {use : List Byte → State → Exit Result} {r : Result} (h : s.CanRun)
    (htx : ∀ t : State, t.blk.cfg = s.blk.cfg → frame t = tx)
    (hx : s.link.exchange tx s.draws = (.received rx, l, n)) (hlen : rx.length = tx.length)
    (huse : ∀ t : State, t.blk.cfg = s.blk.cfg → use rx t = .ret r t) :
    serve i (operation fun t => (transfer (frame t) t).andThen use) s = s.ran l n [.exchange tx rx] (.ok r) := by
  rw [serve_ready h.1]
  have hcs := h.canSelect.csAsserted i
  have htr := transfer_received (s := (s.setPhase (.busy i 0)).selected) (tx := tx) (rx := rx) (l := l) (n := n)
    (by simpa using h.fits.2) (by simpa using hx) hlen
  rw [operation_ret (by simpa using h.fits.1)
    (by simp only [htx _ (show (s.setPhase (.busy i 0)).selected.blk.cfg = s.blk.cfg by simp), htr, Exit.andThen]
        exact huse _ (by simp)) (by simp)]
  exact close_run h.1 h.2.2 (by simp) (by simp) (by simpa using hcs) (by simp) (by simp) (by simp) (by simp)
    (by simp) (by simp) (by simp)

/-- One failed frame (R121): the failing exchange is in the history and the counter is as it was. -/
theorem serve_oneFrame_failed {s : State} {i : Instr} {frame : State → List Byte} {tx : List Byte} {l : Link}
    {n : Nat} {use : List Byte → State → Exit Result} (h : s.CanRun)
    (htx : ∀ t : State, t.blk.cfg = s.blk.cfg → frame t = tx) (hx : s.link.exchange tx s.draws = (.failed, l, n)) :
    serve i (operation fun t => (transfer (frame t) t).andThen use) s =
      s.ran l n [.exchangeFail tx] .transportFailure := by
  rw [serve_ready h.1]
  have hcs := h.canSelect.csAsserted i
  have htr := transfer_failed (s := (s.setPhase (.busy i 0)).selected) (tx := tx) (l := l) (n := n)
    (by simpa using h.fits.2) (by simpa using hx)
  rw [operation_raised (by simpa using h.fits.1)
    (by simp only [htx _ (show (s.setPhase (.busy i 0)).selected.blk.cfg = s.blk.cfg by simp), htr, Exit.andThen]
        rfl) (by simp)]
  exact close_run h.1 h.2.2 (by simp) (by simp) (by simpa using hcs) (by simp) (by simp) (by simp) (by simp)
    (by simp) (by simp) (by simp)

/-- One frame answered with another length (R92, R125). -/
theorem serve_oneFrame_mismatch {s : State} {i : Instr} {frame : State → List Byte} {tx rx : List Byte} {l : Link}
    {n : Nat} {use : List Byte → State → Exit Result} (h : s.CanRun)
    (htx : ∀ t : State, t.blk.cfg = s.blk.cfg → frame t = tx)
    (hx : s.link.exchange tx s.draws = (.received rx, l, n)) (hlen : rx.length ≠ tx.length) :
    serve i (operation fun t => (transfer (frame t) t).andThen use) s =
      s.stuck i 2 2 l n [] .rxLengthMismatch := by
  rw [serve_ready h.1]
  have hcs := h.canSelect.csAsserted i
  have htr := transfer_mismatch (s := (s.setPhase (.busy i 0)).selected) (tx := tx) (rx := rx) (l := l) (n := n)
    (by simpa using h.fits.2) (by simpa using hx) hlen
  rw [operation_fault (by simpa using h.fits.1)
    (by simp only [htx _ (show (s.setPhase (.busy i 0)).selected.blk.cfg = s.blk.cfg by simp), htr, Exit.andThen]
        rfl)]
  refine State.eq_of_fields (Block.eq_of_fields ?_ ?_ ?_ ?_ ?_) ?_ ?_ ?_ ?_ ?_ ?_ <;>
    simp_all [Exit.finish, State.stuck, Phase.next]

/-! ### A frame instruction -/

/-- A frame instruction the device admits is served. -/
theorem serveFrame_admitted {s : State} {i : Instr} {tx : List Byte} {use : List Byte → State → Exit Result}
    (ha : s.link.admits tx = true) :
    serveFrame i tx use s = .next (serve i (fun t => (transfer tx t).andThen use) s) := by
  simp [serveFrame, ha]

/-- A frame the reference device does not admit is refused (R74). -/
theorem serveFrame_refused {s : State} {i : Instr} {tx : List Byte} {use : List Byte → State → Exit Result}
    (hr : s.ready = true) (hf : s.blk.cfg.fits (s.blk.selCount + 1) = true) (ha : s.link.admits tx = false) :
    serveFrame i tx use s = .refused .deviceRefusesFrame := by
  simp [serveFrame, State.reaches, hr, hf, ha]

/-- An answered frame instruction (R93, R75). -/
theorem serve_transfer_received {s : State} {i : Instr} {tx rx : List Byte} {l : Link} {n : Nat}
    {use : List Byte → State → Exit Result} {r : Result} (h : s.CanSelect)
    (hx : s.link.exchange tx s.draws = (.received rx, l, n)) (hlen : rx.length = tx.length)
    (huse : ∀ t : State, use rx t = .ret r t) :
    serve i (fun t => (transfer tx t).andThen use) s = s.ran l n [.exchange tx rx] (.ok r) := by
  rw [serve_ready h.1]
  have hcs := h.csAsserted i
  rw [transfer_received (s := s.setPhase (.busy i 0)) (rx := rx) (l := l) (n := n)
    (by simpa using h.2.1) (by simpa using hx) hlen]
  simp only [Exit.andThen, huse]
  exact close_run h.1 h.2.2 (by simp) (by simp) (by simpa using hcs) (by simp) (by simp) (by simp) (by simp)
    (by simp) (by simp) (by simp)

/-- A failed frame instruction (R121). -/
theorem serve_transfer_failed {s : State} {i : Instr} {tx : List Byte} {l : Link} {n : Nat}
    {use : List Byte → State → Exit Result} (h : s.CanSelect) (hx : s.link.exchange tx s.draws = (.failed, l, n)) :
    serve i (fun t => (transfer tx t).andThen use) s = s.ran l n [.exchangeFail tx] .transportFailure := by
  rw [serve_ready h.1]
  have hcs := h.csAsserted i
  rw [transfer_failed (s := s.setPhase (.busy i 0)) (l := l) (n := n)
    (by simpa using h.2.1) (by simpa using hx)]
  exact close_run h.1 h.2.2 (by simp) (by simp) (by simpa using hcs) (by simp) (by simp) (by simp) (by simp)
    (by simp) (by simp) (by simp)

/-- A frame instruction answered with another length (R92, R125). -/
theorem serve_transfer_mismatch {s : State} {i : Instr} {tx rx : List Byte} {l : Link} {n : Nat}
    {use : List Byte → State → Exit Result} (h : s.CanSelect)
    (hx : s.link.exchange tx s.draws = (.received rx, l, n)) (hlen : rx.length ≠ tx.length) :
    serve i (fun t => (transfer tx t).andThen use) s = s.stuck i 1 1 l n [] .rxLengthMismatch := by
  rw [serve_ready h.1]
  have hcs := h.csAsserted i
  rw [transfer_mismatch (s := s.setPhase (.busy i 0)) (rx := rx) (l := l) (n := n)
    (by simpa using h.2.1) (by simpa using hx) hlen]
  refine State.eq_of_fields (Block.eq_of_fields ?_ ?_ ?_ ?_ ?_) ?_ ?_ ?_ ?_ ?_ ?_ <;>
    simp_all [Exit.finish, State.stuck, Phase.next, Exit.andThen]

/-! ### A counter with room for one selection only, or for none -/

/-- Inside a selection, an operation whose `Select` passes the width faults before its body runs (R90). -/
theorem operation_overflow {α : Type} {body : State → Exit α} {s : State} (hs : s.blk.selCount ≠ 0)
    (hf : s.blk.cfg.fits (s.blk.selCount + 1) = false) : operation body s = .fault .selectOverflow s := by
  simp [operation, selectStep_overflow hf, Exit.andThen, State.assertLine, hs]

/-- Inside a selection, a transfer past the width sends nothing (R90, R93). -/
theorem transfer_overflow {s : State} {tx : List Byte} (hs : s.blk.selCount ≠ 0)
    (hf : s.blk.cfg.fits (s.blk.selCount + 1) = false) : transfer tx s = .fault .selectOverflow s :=
  operation_overflow hs hf

/-- A bus operation on a full counter: its outer `Select` overflows. -/
theorem serve_operation_full {s : State} {i : Instr} {body : State → Exit Result} (hr : s.ready = true)
    (hs : s.blk.selCount ≠ 0) (hf : s.blk.cfg.fits (s.blk.selCount + 1) = false) :
    serve i (operation body) s = (s.setPhase (.busy i 0)).enterFault .selectOverflow := by
  rw [serve_ready hr, operation_overflow (by simpa using hs) (by simpa using hf)]
  rfl

/-- A frame instruction on a full counter. -/
theorem serve_transfer_full {s : State} {i : Instr} {tx : List Byte} {use : List Byte → State → Exit Result}
    (hr : s.ready = true) (hs : s.blk.selCount ≠ 0) (hf : s.blk.cfg.fits (s.blk.selCount + 1) = false) :
    serve i (fun t => (transfer tx t).andThen use) s = (s.setPhase (.busy i 0)).enterFault .selectOverflow := by
  rw [serve_ready hr, transfer_overflow (by simpa using hs) (by simpa using hf)]
  rfl

/-- A frame instruction on a full counter: the device is not reached. -/
theorem serveFrame_full {s : State} {i : Instr} {tx : List Byte} {use : List Byte → State → Exit Result}
    (hr : s.ready = true) (hs : s.blk.selCount ≠ 0) (hf : s.blk.cfg.fits (s.blk.selCount + 1) = false) :
    serveFrame i tx use s = .next ((s.setPhase (.busy i 0)).enterFault .selectOverflow) := by
  simp [serveFrame, State.reaches, hf, serve_transfer_full hr hs hf]

/-- A bus operation whose inner `Select` overflows. -/
theorem serve_overflow {s : State} {i : Instr} {frame : State → List Byte} {use : List Byte → State → Exit Result}
    (hr : s.ready = true) (hline : s.blk.lineAgrees) (h1 : s.blk.cfg.fits (s.blk.selCount + 1) = true)
    (h2 : s.blk.cfg.fits (s.blk.selCount + 2) = false) :
    serve i (operation fun t => (transfer (frame t) t).andThen use) s =
      s.stuck i 1 1 s.link s.draws [] .selectOverflow := by
  rw [serve_ready hr]
  have hcs := State.CanSelect.csAsserted ⟨hr, h1, hline⟩ i
  rw [operation_fault (by simpa using h1) (f := .selectOverflow) (t := (s.setPhase (.busy i 0)).selected)
    (by rw [transfer_overflow (by simp) (by simpa using h2)]; rfl)]
  refine State.eq_of_fields (Block.eq_of_fields ?_ ?_ ?_ ?_ ?_) ?_ ?_ ?_ ?_ ?_ ?_ <;>
    simp_all [Exit.finish, State.stuck, Phase.next]

/-! ### Two frames inside one selection: the read-modify-write of R106 -/

/-- Both exchanges answered. -/
theorem serve_twoFrames_received {s : State} {i : Instr} {tx1 rx1 tx2 rx2 : List Byte} {l1 l2 : Link} {n1 n2 : Nat}
    {k : List Byte → State → Exit Result} (h : s.CanRun)
    (hx1 : s.link.exchange tx1 s.draws = (.received rx1, l1, n1)) (hlen1 : rx1.length = tx1.length)
    (hk : ∀ t : State, t.blk.cfg = s.blk.cfg → k rx1 t = (transfer tx2 t).andThen ignoreResponse)
    (hx2 : l1.exchange tx2 n1 = (.received rx2, l2, n2)) (hlen2 : rx2.length = tx2.length) :
    serve i (operation fun t => (transfer tx1 t).andThen k) s =
      s.ran l2 n2 [.exchange tx1 rx1, .exchange tx2 rx2] (.ok .unit) := by
  rw [serve_ready h.1]
  have hcs := h.canSelect.csAsserted i
  have htr := transfer_received (s := (s.setPhase (.busy i 0)).selected) (tx := tx1) (rx := rx1) (l := l1) (n := n1)
    (by simpa using h.fits.2) (by simpa using hx1) hlen1
  have htr2 := transfer_received
    (s := (((s.setPhase (.busy i 0)).selected.selected.setLink l1 n1).emit (.exchange tx1 rx1)).tick.deselected)
    (tx := tx2) (rx := rx2) (l := l2) (n := n2) (by simpa using h.fits.2) (by simpa using hx2) hlen2
  rw [operation_ret (v := Result.unit) (by simpa using h.fits.1)
    (by simp only [htr, Exit.andThen]
        rw [hk _ (by simp), htr2]
        rfl) (by simp)]
  exact close_run h.1 h.2.2 (by simp) (by simp) (by simpa using hcs)
    (by simp) (by simp) (by simp) (by simp) (by simp [State.openEvents_held]) (by simp) (by simp)

/-- The first exchange fails: the second frame is never built (R119). -/
theorem serve_twoFrames_firstFailed {s : State} {i : Instr} {tx1 : List Byte} {l1 : Link} {n1 : Nat}
    {k : List Byte → State → Exit Result} (h : s.CanRun)
    (hx1 : s.link.exchange tx1 s.draws = (.failed, l1, n1)) :
    serve i (operation fun t => (transfer tx1 t).andThen k) s = s.ran l1 n1 [.exchangeFail tx1] .transportFailure :=
  serve_oneFrame_failed (frame := fun _ => tx1) h (fun _ _ => rfl) hx1

/-- The second exchange fails (R119). -/
theorem serve_twoFrames_secondFailed {s : State} {i : Instr} {tx1 rx1 tx2 : List Byte} {l1 l2 : Link} {n1 n2 : Nat}
    {k : List Byte → State → Exit Result} (h : s.CanRun)
    (hx1 : s.link.exchange tx1 s.draws = (.received rx1, l1, n1)) (hlen1 : rx1.length = tx1.length)
    (hk : ∀ t : State, t.blk.cfg = s.blk.cfg → k rx1 t = (transfer tx2 t).andThen ignoreResponse)
    (hx2 : l1.exchange tx2 n1 = (.failed, l2, n2)) :
    serve i (operation fun t => (transfer tx1 t).andThen k) s =
      s.ran l2 n2 [.exchange tx1 rx1, .exchangeFail tx2] .transportFailure := by
  rw [serve_ready h.1]
  have hcs := h.canSelect.csAsserted i
  have htr := transfer_received (s := (s.setPhase (.busy i 0)).selected) (tx := tx1) (rx := rx1) (l := l1) (n := n1)
    (by simpa using h.fits.2) (by simpa using hx1) hlen1
  have htr2 := transfer_failed
    (s := (((s.setPhase (.busy i 0)).selected.selected.setLink l1 n1).emit (.exchange tx1 rx1)).tick.deselected)
    (tx := tx2) (l := l2) (n := n2) (by simpa using h.fits.2) (by simpa using hx2)
  rw [operation_raised (by simpa using h.fits.1)
    (by simp only [htr, Exit.andThen]
        rw [hk _ (by simp), htr2]
        rfl) (by simp)]
  exact close_run h.1 h.2.2 (by simp) (by simp) (by simpa using hcs)
    (by simp) (by simp) (by simp) (by simp) (by simp [State.openEvents_held]) (by simp) (by simp)

/-- The second exchange is answered with another length (R92, R125). -/
theorem serve_twoFrames_secondMismatch {s : State} {i : Instr} {tx1 rx1 tx2 rx2 : List Byte} {l1 l2 : Link}
    {n1 n2 : Nat} {k : List Byte → State → Exit Result} (h : s.CanRun)
    (hx1 : s.link.exchange tx1 s.draws = (.received rx1, l1, n1)) (hlen1 : rx1.length = tx1.length)
    (hk : ∀ t : State, t.blk.cfg = s.blk.cfg → k rx1 t = (transfer tx2 t).andThen ignoreResponse)
    (hx2 : l1.exchange tx2 n1 = (.received rx2, l2, n2)) (hlen2 : rx2.length ≠ tx2.length) :
    serve i (operation fun t => (transfer tx1 t).andThen k) s =
      s.stuck i 5 2 l2 n2 [.exchange tx1 rx1] .rxLengthMismatch := by
  rw [serve_ready h.1]
  have hcs := h.canSelect.csAsserted i
  have htr := transfer_received (s := (s.setPhase (.busy i 0)).selected) (tx := tx1) (rx := rx1) (l := l1) (n := n1)
    (by simpa using h.fits.2) (by simpa using hx1) hlen1
  have htr2 := transfer_mismatch
    (s := (((s.setPhase (.busy i 0)).selected.selected.setLink l1 n1).emit (.exchange tx1 rx1)).tick.deselected)
    (tx := tx2) (rx := rx2) (l := l2) (n := n2) (by simpa using h.fits.2) (by simpa using hx2) hlen2
  rw [operation_fault (by simpa using h.fits.1)
    (by simp only [htr, Exit.andThen]
        rw [hk _ (by simp), htr2]
        rfl)]
  refine State.eq_of_fields (Block.eq_of_fields ?_ ?_ ?_ ?_ ?_) ?_ ?_ ?_ ?_ ?_ ?_ <;>
    simp_all [Exit.finish, State.stuck, Phase.next, State.openEvents_held]

/-! ### Instructions of one block of meanings -/

/-- A 2-byte sequence is its two bytes. -/
theorem eq_pair_of_length {l : List Byte} (h : l.length = 2) : ∃ r0 r1, l = [r0, r1] := by
  match l, h with
  | [a, b], _ => exact ⟨a, b, rfl⟩

end Sys2Proof.Machine
end

