-- ==== Sys2Proof/Laws/Frames.lean ====
section
/-! SUPPORT. The frames the operations build are the bytes the statements write out (R71); the bit updates and bit tests are
those of the statements' bit numbers (R31, R32); what the reference device does with each kind of frame (R130). -/

namespace Sys2Proof.Claims
open Sys2Proof.Machine

/-! ### Frames of R71 -/

theorem buildFrame_increment (p : PotIndex) : buildFrame (wiperAddr p) .increment none = incrBytes p := by
  cases p <;> decide

theorem buildFrame_decrement (p : PotIndex) : buildFrame (wiperAddr p) .decrement none = decrBytes p := by
  cases p <;> decide

theorem readFrame_wiper (p : PotIndex) : readFrame (wiperAddr p) = getBytes p := by
  cases p <;> decide

theorem readFrame_tcon : readFrame tconAddr = readTconBytes := by decide

theorem readFrame_status : readFrame statusAddr = readStatusBytes := by decide

theorem tconWriteFrame_eq : ∀ n : Byte, tconWriteFrame n = writeTconBytes n := by decide

theorem setBytes_pot0 : ∀ v : U9, v.toNat ≤ 256 → setBytes .pot0 v.toNat = dataFrame 0x0#4 .write v := by decide

theorem setBytes_pot1 : ∀ v : U9, v.toNat ≤ 256 → setBytes .pot1 v.toNat = dataFrame 0x1#4 .write v := by decide

theorem buildFrame_set_pot0 : ∀ v : U9, v.toNat ≤ 256 →
    buildFrame (wiperAddr .pot0) .write (some v) = setBytes .pot0 v.toNat := by decide

theorem buildFrame_set_pot1 : ∀ v : U9, v.toNat ≤ 256 →
    buildFrame (wiperAddr .pot1) .write (some v) = setBytes .pot1 v.toNat := by decide

theorem buildFrame_set (p : PotIndex) (v : U9) (h : v.toNat ≤ 256) :
    buildFrame (wiperAddr p) .write (some v) = setBytes p v.toNat := by
  cases p
  · exact buildFrame_set_pot0 v h
  · exact buildFrame_set_pot1 v h

theorem writeTconBytes_eq : ∀ n : Byte, writeTconBytes n = dataFrame 0x4#4 .write (tconWireData n) := by decide

theorem ctrlFrame_increment : ∀ a : U4, buildFrame a .increment none = [ctrlByte a .increment false] := by decide

theorem ctrlFrame_decrement : ∀ a : U4, buildFrame a .decrement none = [ctrlByte a .decrement false] := by decide

/-! ### `max_value` and the clamp (R98, R102) -/

theorem maxValue_eq (c : Cfg) : maxValue c = maxByTable c := by
  rcases c with ⟨p, r, w, _⟩
  cases r <;> cases w <;> rfl

theorem maxByTable_le (c : Cfg) : maxByTable c ≤ 256 := by
  rcases c with ⟨p, r, w, _⟩
  cases r <;> cases w <;> simp [maxByTable]

theorem clampedValue_toNat (c : Cfg) (v : Nat) : (clampedValue c v).toNat = min v (maxByTable c) := by
  have := maxByTable_le c
  simp only [clampedValue, maxValue_eq, BitVec.toNat_ofNat]
  omega

/-- The frame `set` sends (R102). -/
theorem buildFrame_clamped (c : Cfg) (p : PotIndex) (v : Nat) :
    buildFrame (wiperAddr p) .write (some (clampedValue c v)) = setBytes p (min v (maxByTable c)) := by
  have := maxByTable_le c
  rw [buildFrame_set _ _ (by rw [clampedValue_toNat]; omega), clampedValue_toNat]

/-! ### Decoded values and flag bits -/

theorem decodeWiper_toNat (r0 r1 : Byte) : (decodeWiper r0 r1).toNat = positionOf r0 r1 := by
  have h : ((r0 &&& 0x01#8).setWidth 9 <<< 8 : BitVec 9) = if r0[0] then 256#9 else 0#9 := by
    revert r0
    decide
  unfold decodeWiper positionOf
  rw [h]
  split
  · revert r1
    decide
  · simp
    omega

/-- The masks of an instance, base mask by base mask, are its flag bits (R31, R32, R105). -/
theorem effMask_bits (p : PotIndex) :
    effMask p maskB = 0x01#8 <<< flagBit p 0 ∧ effMask p maskW = 0x01#8 <<< flagBit p 1 ∧
    effMask p maskA = 0x01#8 <<< flagBit p 2 ∧ effMask p maskShdn = 0x01#8 <<< flagBit p 3 := by
  cases p <;> decide

/-- Forcing a mask of one bit is replacing that bit (R106 step 4). -/
theorem forceBit_eq (b : Byte) (j : Nat) (v : Bool) : forceBit b (0x01#8 <<< j) v = withBit b j v := rfl

theorem testBit_bit0 : ∀ b : Byte, testBit b 0x01#8 = b.getLsbD 0 := by decide
theorem testBit_bit1 : ∀ b : Byte, testBit b 0x02#8 = b.getLsbD 1 := by decide
theorem testBit_bit2 : ∀ b : Byte, testBit b 0x04#8 = b.getLsbD 2 := by decide
theorem testBit_bit3 : ∀ b : Byte, testBit b 0x08#8 = b.getLsbD 3 := by decide
theorem testBit_bit4 : ∀ b : Byte, testBit b 0x10#8 = b.getLsbD 4 := by decide
theorem testBit_bit5 : ∀ b : Byte, testBit b 0x20#8 = b.getLsbD 5 := by decide
theorem testBit_bit6 : ∀ b : Byte, testBit b 0x40#8 = b.getLsbD 6 := by decide
theorem testBit_bit7 : ∀ b : Byte, testBit b 0x80#8 = b.getLsbD 7 := by decide

/-- Testing an instance's mask reads its flag bit (R107). -/
theorem testBit_effMask (b : Byte) (p : PotIndex) :
    testBit b (effMask p maskB) = b.getLsbD (flagBit p 0) ∧ testBit b (effMask p maskW) = b.getLsbD (flagBit p 1) ∧
    testBit b (effMask p maskA) = b.getLsbD (flagBit p 2) ∧
    testBit b (effMask p maskShdn) = b.getLsbD (flagBit p 3) := by
  cases p
  · exact ⟨testBit_bit0 b, testBit_bit1 b, testBit_bit2 b, testBit_bit3 b⟩
  · exact ⟨testBit_bit4 b, testBit_bit5 b, testBit_bit6 b, testBit_bit7 b⟩

/-! ### The frame rows -/

/-- What the three readings of a response deliver, once it has the READ's two bytes (R75). -/
theorem wiperResponse_eq (r0 r1 : Byte) (s : State) :
    wiperResponse [r0, r1] s = .ret (.nat (positionOf r0 r1)) s := by
  simp [wiperResponse, withPair, decodeWiper_toNat]

theorem regResponse_eq (r0 r1 : Byte) (s : State) : regResponse [r0, r1] s = .ret (.nat r1.toNat) s := rfl

theorem readResponse_eq (a : U4) (v : U9) {rx : List Byte} (hl : rx.length = 2) (s : State) :
    readResponse a rx s = .ret (frameResult (.read a v) rx) s := by
  obtain ⟨r0, r1, rfl⟩ := eq_pair_of_length hl
  simp only [readResponse, isWiperAddr, tconAddr, statusAddr, frameResult]
  by_cases h0 : a = 0x0#4 ∨ a = 0x1#4
  · simp [h0, wiperResponse_eq]
  · by_cases h1 : a = 0x4#4 ∨ a = 0x5#4 <;> simp [h0, h1, regResponse_eq, rawResponse]

/-- Every frame row, well formed or not, is a self-selecting transfer. -/
theorem exec_transfer {i : Instr} (he : (encode i).isSome = true) :
    ∃ tx use, ∀ s, exec i s = serveFrame i tx use s := by
  cases i
  all_goals first
    | exact ⟨_, _, fun _ => rfl⟩
    | simp [encode] at he

/-- The rows that have an encoding are the fifteen frame rows. -/
theorem encode_isSome (i : Instr) : (encode i).isSome = frameRow i := by cases i <;> rfl

/-- An instruction that uses the bus is a frame row or a host operation. -/
theorem row_kinds (i : Instr) : (frameRow i || hostOperation i || !i.usesBus) = true := by cases i <;> rfl

/-- The selections before the first exchange, as the statements count them. -/
theorem selectsBeforeExchange_eq (i : Instr) : selectsBeforeExchange i = selectionsNeeded i := by
  simp [selectsBeforeExchange, encode_isSome, selectionsNeeded]

/-- Every well-formed frame row is the self-selecting transfer of its encoding, its response read as R75 says (R93). -/
theorem exec_frameRow {i : Instr} {tx : List Byte} (hw : i.wf = true) (he : encode i = some tx) :
    ∃ use, (∀ s, exec i s = serveFrame i tx use s) ∧
      ∀ rx, rx.length = tx.length → ∀ s, use rx s = .ret (frameResult i rx) s := by
  cases i <;> simp only [encode, Option.some.injEq, reduceCtorEq] at he <;> subst he
  case read a v => exact ⟨_, fun _ => rfl, fun _ hl s => readResponse_eq a v hl s⟩
  case readWiper0 | readWiper1 =>
    refine ⟨_, fun _ => rfl, fun rx hl s => ?_⟩
    obtain ⟨r0, r1, rfl⟩ := eq_pair_of_length (l := rx) hl
    exact wiperResponse_eq r0 r1 s
  case readTcon | readStatus =>
    refine ⟨_, fun _ => rfl, fun rx hl s => ?_⟩
    obtain ⟨r0, r1, rfl⟩ := eq_pair_of_length (l := rx) hl
    exact regResponse_eq r0 r1 s
  case writeWiper0 v =>
    have hv : v.toNat ≤ 256 := by simpa [Instr.wf, isWiperData] using hw
    exact ⟨ignoreResponse, fun s => by simp only [exec, execWriteWiper0, buildFrame_set _ _ hv, setBytes_pot0 _ hv],
      fun _ _ _ => rfl⟩
  case writeWiper1 v =>
    have hv : v.toNat ≤ 256 := by simpa [Instr.wf, isWiperData] using hw
    exact ⟨ignoreResponse, fun s => by simp only [exec, execWriteWiper1, buildFrame_set _ _ hv, setBytes_pot1 _ hv],
      fun _ _ _ => rfl⟩
  case incr a =>
    exact ⟨ignoreResponse, fun s => by simp only [exec, execIncr, ctrlFrame_increment], fun _ _ _ => rfl⟩
  case decr a =>
    exact ⟨ignoreResponse, fun s => by simp only [exec, execDecr, ctrlFrame_decrement], fun _ _ _ => rfl⟩
  case writeTcon n =>
    exact ⟨ignoreResponse, fun s => by simp only [exec, execWriteTcon, tconWriteFrame_eq, writeTconBytes_eq],
      fun _ _ _ => rfl⟩
  all_goals exact ⟨ignoreResponse, fun _ => rfl, fun _ _ _ => rfl⟩

/-! ### The reference device (R130) -/

theorem respond_write (d : RefDevice) (a : U4) (v : U9) :
    d.respond (dataFrame a .write v) = (d.onWrite a v).map fun d' => (dataFrame a .write v, d') := by
  simp [RefDevice.respond, dataFrame]

theorem respond_read (d : RefDevice) (a : U4) (v : U9) :
    d.respond (dataFrame a .read v) = if v = 0x1FF#9 then (d.onRead a).map fun rx => (rx, d) else none := by
  simp [RefDevice.respond, dataFrame, readSentinel]

theorem respond_increment (d : RefDevice) (a : U4) :
    d.respond [ctrlByte a .increment false] =
      (wiperOfAddr a).map fun p => ([ctrlByte a .increment false], d.setWiper p (d.stepUp p)) := by
  simp only [RefDevice.respond, ctrlReserved_ctrlByte, ctrlD8_ctrlByte, ctrlCommand_ctrlByte, ctrlAddress_ctrlByte]
  cases wiperOfAddr a <;> rfl

theorem respond_decrement (d : RefDevice) (a : U4) :
    d.respond [ctrlByte a .decrement false] =
      (wiperOfAddr a).map fun p => ([ctrlByte a .decrement false], d.setWiper p (d.stepDown p)) := by
  simp only [RefDevice.respond, ctrlReserved_ctrlByte, ctrlD8_ctrlByte, ctrlCommand_ctrlByte, ctrlAddress_ctrlByte]
  cases wiperOfAddr a <;> rfl

/-- An exchange with a reference device that admits the frame, on a transport that does not fail. -/
theorem exchange_reference {d d' : RefDevice} {tx rx : List Byte} (n : Nat) (h : d.respond tx = some (rx, d')) :
    (Link.reference d []).exchange tx n = (.received rx, .reference d' [], n) := by
  simp [Link.exchange, referenceAnswer, h]

@[simp] theorem wiper_setWiper (d : RefDevice) (p : PotIndex) (v : U9) : (d.setWiper p v).wiper p = v := by
  cases p <;> rfl

@[simp] theorem dmax_setWiper (d : RefDevice) (p q : PotIndex) (v : U9) : (d.setWiper p v).dmax q = d.dmax q := by
  cases p <;> cases q <;> rfl

end Sys2Proof.Claims
end

