-- ==== Sys2Proof/Laws/Inversion.lean ====
section
/-! SUPPORT. Everything an instruction can do, said once: what may happen inside a selection (`Exit.Inside`), how a bus
operation ends (`Completed`, `Broken`), and the inversion of `exec` (`exec_next_cases`), from which the invariants
follow without unfolding a meaning again. -/

namespace Sys2Proof.Machine

/-- An event of an exchange whose frame satisfies `P`; an answered one has the frame's length (R92). -/
def Event.IsExchange (P : List Byte → Prop) : Event → Prop
  | .csAssert => False
  | .csDeassert => False
  | .exchange tx rx => rx.length = tx.length ∧ P tx
  | .exchangeFail tx => P tx

/-- `u` is reached from `t` by the exchanges `evs` alone: at most `n` of them, and nothing else of the block's
surroundings or configuration differs. -/
structure Within (P : List Byte → Prop) (n : Nat) (t u : State) (evs : List Event) : Prop where
  bound : evs.length ≤ n
  exchanges : ∀ e ∈ evs, e.IsExchange P
  events : u.events = t.events ++ evs
  cfg : u.blk.cfg = t.blk.cfg
  faulted : u.blk.faulted = t.blk.faulted
  csAsserted : u.blk.csAsserted = t.blk.csAsserted
  second : u.second = t.second
  verdicts : u.verdicts = t.verdicts
  inbox : u.inbox = t.inbox

/-- The faults the inside of an operation can raise (R125): an answer of the wrong length, or an overflow of a counter
of finite width. -/
def Fault.FromInside (f : Fault) (c : Cfg) : Prop :=
  f = .rxLengthMismatch ∨ (f = .selectOverflow ∧ c.selWidth ≠ none)

/-- What a piece of an operation's body can do from `t`, inside a selection: it returns or raises with the counter as
it found it, or it faults with the selections it holds not given back (R94). -/
def Exit.Inside {α : Type} (P : List Byte → Prop) (n : Nat) (t : State) : Exit α → Prop
  | .ret _ u => ∃ evs, Within P n t u evs ∧ u.blk.selCount = t.blk.selCount
  | .raised u => ∃ evs, Within P n t u evs ∧ u.blk.selCount = t.blk.selCount
  | .fault f u => ∃ evs, Within P n t u evs ∧ t.blk.selCount ≤ u.blk.selCount ∧
      (t.blk.cfg.fits t.blk.selCount = true → t.blk.cfg.fits u.blk.selCount = true) ∧ f.FromInside t.blk.cfg

theorem Within.refl {P : List Byte → Prop} {n : Nat} (t : State) : Within P n t t [] :=
  ⟨by simp, by simp, by simp, rfl, rfl, rfl, rfl, rfl, rfl⟩

theorem Within.trans {P : List Byte → Prop} {m n : Nat} {t u v : State} {es fs : List Event}
    (h : Within P m t u es) (k : Within P n u v fs) : Within P (m + n) t v (es ++ fs) := by
  refine ⟨?_, ?_, ?_, k.cfg.trans h.cfg, k.faulted.trans h.faulted, k.csAsserted.trans h.csAsserted,
    k.second.trans h.second, k.verdicts.trans h.verdicts, k.inbox.trans h.inbox⟩
  · have := h.bound
    have := k.bound
    simp only [List.length_append]
    omega
  · intro e he
    rcases List.mem_append.1 he with he | he
    · exact h.exchanges e he
    · exact k.exchanges e he
  · rw [k.events, h.events, List.append_assoc]

theorem Within.weaken {P : List Byte → Prop} {m n : Nat} {t u : State} {es : List Event} (h : Within P m t u es)
    (hmn : m ≤ n) : Within P n t u es :=
  ⟨h.bound.trans hmn, h.exchanges, h.events, h.cfg, h.faulted, h.csAsserted, h.second, h.verdicts, h.inbox⟩

/-- A pure end. -/
theorem Exit.inside_ret {α : Type} {P : List Byte → Prop} {n : Nat} {t : State} {v : α} :
    (Exit.ret v t).Inside P n t :=
  ⟨[], Within.refl t, rfl⟩

/-- One piece after another. -/
theorem Exit.inside_andThen {α β : Type} {P : List Byte → Prop} {m n : Nat} {t : State} {x : Exit α}
    {k : α → State → Exit β} (hx : x.Inside P m t)
    (hk : ∀ v u evs, Within P m t u evs → u.blk.selCount = t.blk.selCount → (k v u).Inside P n u) :
    (x.andThen k).Inside P (m + n) t := by
  cases x with
  | ret v u =>
    obtain ⟨es, hw, hc⟩ := hx
    have h := hk v u es hw hc
    simp only [Exit.andThen]
    generalize k v u = y at h
    cases y with
    | ret w z =>
      obtain ⟨fs, hz, hcz⟩ := h
      exact ⟨es ++ fs, hw.trans hz, hcz.trans hc⟩
    | raised z =>
      obtain ⟨fs, hz, hcz⟩ := h
      exact ⟨es ++ fs, hw.trans hz, hcz.trans hc⟩
    | fault f z =>
      obtain ⟨fs, hz, hle, hfit, hf⟩ := h
      rw [hw.cfg] at hfit hf
      rw [hc] at hle hfit
      exact ⟨es ++ fs, hw.trans hz, hle, hfit, hf⟩
  | raised u =>
    obtain ⟨es, hw, hc⟩ := hx
    exact ⟨es, hw.weaken (by omega), hc⟩
  | fault f u =>
    obtain ⟨es, hw, h⟩ := hx
    exact ⟨es, hw.weaken (by omega), h⟩

/-- The checked exchange, inside a selection. -/
theorem exchangeChecked_inside {P : List Byte → Prop} {tx : List Byte} {t : State} (hs : t.blk.selCount ≠ 0)
    (hP : P tx) : (exchangeChecked tx t).Inside P 1 t := by
  rcases hx : t.link.exchange tx t.draws with ⟨a, l, n⟩
  cases a with
  | failed =>
    rw [exchangeChecked_failed hs hx]
    exact ⟨[.exchangeFail tx], ⟨by simp, by simp [Event.IsExchange, hP], by simp, rfl, rfl, rfl, rfl, rfl, rfl⟩, rfl⟩
  | received rx =>
    by_cases hlen : rx.length = tx.length
    · rw [exchangeChecked_received hs hx hlen]
      exact ⟨[.exchange tx rx],
        ⟨by simp, by simp [Event.IsExchange, hP, hlen], by simp, rfl, rfl, rfl, rfl, rfl, rfl⟩, rfl⟩
    · rw [exchangeChecked_mismatch hs hx hlen]
      exact ⟨[], ⟨by simp, by simp, by simp, rfl, rfl, rfl, rfl, rfl, rfl⟩, le_refl _, id, .inl rfl⟩

/-- `Select` at `sel_count >= 1` returns, or overflows a finite counter; it emits nothing. -/
theorem selectStep_held_cases {t : State} (hs : t.blk.selCount ≠ 0) :
    (selectStep t = .ret () (t.setSelCount (t.blk.selCount + 1)).tick ∧
      t.blk.cfg.fits (t.blk.selCount + 1) = true) ∨
    (selectStep t = .fault .selectOverflow t ∧ t.blk.cfg.selWidth ≠ none) := by
  cases hf : t.blk.cfg.fits (t.blk.selCount + 1) with
  | true => exact .inl ⟨by simp [selectStep, hf, State.assertLine, hs], rfl⟩
  | false =>
    refine .inr ⟨by simp [selectStep, hf, State.assertLine, hs], ?_⟩
    intro hn
    simp [Cfg.fits, hn] at hf

/-- `Deselect` at `sel_count >= 2` returns and emits nothing. -/
theorem deselectStep_held {t : State} (hs : 2 ≤ t.blk.selCount) :
    deselectStep t = .ret () (t.setSelCount (t.blk.selCount - 1)).tick := by
  have h0 : t.blk.selCount ≠ 0 := by omega
  have h1 : t.blk.selCount - 1 ≠ 0 := by omega
  simp [deselectStep, h0, State.releaseLine, h1]

/-- A transfer inside a selection (R93). -/
theorem transfer_inside {P : List Byte → Prop} {tx : List Byte} {t : State} (hs : t.blk.selCount ≠ 0) (hP : P tx) :
    (transfer tx t).Inside P 1 t := by
  rcases selectStep_held_cases hs with ⟨hsel, hfit⟩ | ⟨hsel, hw⟩
  · simp only [transfer, operation, hsel, Exit.andThen, guarded]
    have hin := exchangeChecked_inside (P := P) (tx := tx)
      (t := (t.setSelCount (t.blk.selCount + 1)).tick) (by simp) hP
    generalize exchangeChecked tx (t.setSelCount (t.blk.selCount + 1)).tick = x at hin
    cases x with
    | ret v u =>
      obtain ⟨evs, hw, hc⟩ := hin
      have hc' : u.blk.selCount = t.blk.selCount + 1 := hc
      simp only [deselectStep_held (show 2 ≤ u.blk.selCount by omega)]
      exact ⟨evs, ⟨hw.bound, hw.exchanges, hw.events, hw.cfg, hw.faulted, hw.csAsserted, hw.second, hw.verdicts,
        hw.inbox⟩, by simp [hc']⟩
    | raised u =>
      obtain ⟨evs, hw, hc⟩ := hin
      have hc' : u.blk.selCount = t.blk.selCount + 1 := hc
      simp only [deselectStep_held (show 2 ≤ u.blk.selCount by omega)]
      exact ⟨evs, ⟨hw.bound, hw.exchanges, hw.events, hw.cfg, hw.faulted, hw.csAsserted, hw.second, hw.verdicts,
        hw.inbox⟩, by simp [hc']⟩
    | fault f u =>
      obtain ⟨evs, hw, hle, hfits, hf⟩ := hin
      exact ⟨evs, ⟨hw.bound, hw.exchanges, hw.events, hw.cfg, hw.faulted, hw.csAsserted, hw.second, hw.verdicts,
        hw.inbox⟩, by simp at hle; omega, fun _ => hfits hfit, hf⟩
  · simp only [transfer, operation, hsel, Exit.andThen]
    exact ⟨[], Within.refl t, le_refl _, id, .inr ⟨rfl, hw⟩⟩

/-- A response handler. -/
theorem withPair_inside {α : Type} {P : List Byte → Prop} {n : Nat} {t : State} {rx : List Byte}
    {k : Byte → Byte → Exit α} (hk : ∀ r0 r1, (k r0 r1).Inside P n t) : (withPair rx k t).Inside P n t := by
  unfold withPair
  split
  · exact hk _ _
  · exact ⟨[], Within.refl t, le_refl _, id, .inl rfl⟩

/-! ### How a bus operation ends -/

/-- `t` is `s` after a bus operation that ended normally or by `TransportFailure` (R121): the counter as it was, the
line released if it was asserted for this operation, the exchanges `evs` between the chip-select events, one verdict. -/
structure Completed (P : List Byte → Prop) (n : Nat) (s t : State) : Prop where
  cfg : t.blk.cfg = s.blk.cfg
  selCount : t.blk.selCount = s.blk.selCount
  csAsserted : t.blk.csAsserted = (if s.blk.selCount = 0 then false else s.blk.csAsserted)
  phase : t.blk.phase = .idle
  faulted : t.blk.faulted = s.blk.faulted
  second : t.second = s.second
  inbox : t.inbox = s.inbox
  events : ∃ evs : List Event, evs.length ≤ n ∧ (∀ e ∈ evs, e.IsExchange P) ∧
    t.events = s.events ++ s.openEvents ++ evs ++ s.closeEvents
  verdict : (∃ r, t.verdicts = s.verdicts ++ [.ok r]) ∨ t.verdicts = s.verdicts ++ [.transportFailure]

/-- `t` is `s` after a bus operation that faulted (R125): no `Deselect` has run. -/
structure Broken (P : List Byte → Prop) (n : Nat) (s t : State) : Prop where
  cfg : t.blk.cfg = s.blk.cfg
  selCount : s.blk.selCount ≤ t.blk.selCount
  held : s.blk.cfg.fits 1 = true → 0 < t.blk.selCount
  fits : s.blk.cfg.fits s.blk.selCount = true → t.blk.cfg.fits t.blk.selCount = true
  csAsserted : t.blk.csAsserted = (if s.blk.selCount = 0 then true else s.blk.csAsserted)
  faulted : t.blk.faulted = true
  second : t.second = s.second
  inbox : t.inbox = s.inbox
  events : ∃ evs : List Event, evs.length ≤ n ∧ (∀ e ∈ evs, e.IsExchange P) ∧
    t.events = s.events ++ s.openEvents ++ evs
  verdict : ∃ f : Fault, f.FromInside s.blk.cfg ∧ t.verdicts = s.verdicts ++ [.fault f]

@[simp] theorem State.assertLine_cfg (s : State) : s.assertLine.blk.cfg = s.blk.cfg := by
  simp only [State.assertLine]; split <;> rfl
@[simp] theorem State.assertLine_selCount (s : State) : s.assertLine.blk.selCount = s.blk.selCount := by
  simp only [State.assertLine]; split <;> rfl
@[simp] theorem State.assertLine_second (s : State) : s.assertLine.second = s.second := by
  simp only [State.assertLine]; split <;> rfl
@[simp] theorem State.assertLine_verdicts (s : State) : s.assertLine.verdicts = s.verdicts := by
  simp only [State.assertLine]; split <;> rfl
@[simp] theorem State.assertLine_inbox (s : State) : s.assertLine.inbox = s.inbox := by
  simp only [State.assertLine]; split <;> rfl
@[simp] theorem State.assertLine_events (s : State) : s.assertLine.events = s.events ++ s.openEvents := by
  simp only [State.assertLine, State.openEvents]; split <;> simp
@[simp] theorem State.assertLine_csAsserted (s : State) :
    s.assertLine.blk.csAsserted = (if s.blk.selCount = 0 then true else s.blk.csAsserted) := by
  simp only [State.assertLine]; split <;> rfl

/-- A bus operation served by a ready instance completes or breaks; `use` is what a frame instruction does with the
response after the selection is given back, and returns. -/
theorem serve_operation_cases {α : Type} {P : List Byte → Prop} {n : Nat} {i : Instr} {body : State → Exit α}
    {use : α → State → Exit Result} {s : State} (hr : s.ready = true)
    (hbody : ∀ u : State, u.blk.cfg = s.blk.cfg → u.blk.selCount ≠ 0 → (body u).Inside P n u)
    (huse : ∀ t u v, body t = .ret v u → ∀ w, ∃ r, use v w = .ret r w) :
    Completed P n s (serve i (fun t => (operation body t).andThen use) s) ∨
    Broken P n s (serve i (fun t => (operation body t).andThen use) s) := by
  rw [serve_ready hr]
  have hfa := ((State.ready_iff s).1 hr).2
  cases hf : (s.setPhase (.busy i 0)).blk.cfg.fits ((s.setPhase (.busy i 0)).blk.selCount + 1) with
  | false =>
    right
    simp only [operation, selectStep_overflow hf, Exit.andThen, Exit.finish]
    refine ⟨by simp, by simp, ?_, by simp, by by_cases h : s.blk.selCount = 0 <;> simp [h], by simp, by simp,
      by simp, ⟨[], by simp, by simp, by simp⟩, ⟨.selectOverflow, .inr ⟨rfl, ?_⟩, by simp⟩⟩
    · intro h1
      simp only [State.setPhase_cfg, State.setPhase_selCount] at hf
      simp only [State.enterFault_selCount, State.assertLine_selCount, State.setPhase_selCount]
      rcases Nat.eq_zero_or_pos s.blk.selCount with h0 | h0
      · simp [h0, h1] at hf
      · exact h0
    · intro hn
      simp [Cfg.fits, hn] at hf
  | true =>
    have hin := hbody (s.setPhase (.busy i 0)).selected (by simp) (by simp)
    cases hb : body (s.setPhase (.busy i 0)).selected with
    | ret v u =>
      rw [hb] at hin
      obtain ⟨evs, hw, hc⟩ := hin
      simp only [State.selected_selCount, State.setPhase_selCount] at hc
      obtain ⟨r, hu⟩ := huse _ _ _ hb u.deselected
      rw [operation_ret hf hb (by omega)]
      simp only [Exit.andThen, hu, Exit.finish]
      left
      refine ⟨by simp [hw.cfg], by simp [hc], ?_, by simp, by simp [hw.faulted], by simp [hw.second],
        by simp [hw.inbox], ⟨evs, hw.bound, hw.exchanges, ?_⟩, .inl ⟨r, by simp [hw.verdicts]⟩⟩
      · simp only [State.conclude_blk, State.setPhase_csAsserted, State.deselected_csAsserted, hc, hw.csAsserted]
        by_cases h : s.blk.selCount = 0 <;> simp [h]
      · simp [hw.events, hc, State.closeEvents]
    | raised u =>
      rw [hb] at hin
      obtain ⟨evs, hw, hc⟩ := hin
      simp only [State.selected_selCount, State.setPhase_selCount] at hc
      rw [operation_raised hf hb (by omega)]
      simp only [Exit.andThen, Exit.finish]
      left
      refine ⟨by simp [hw.cfg], by simp [hc], ?_, by simp, by simp [hw.faulted], by simp [hw.second],
        by simp [hw.inbox], ⟨evs, hw.bound, hw.exchanges, ?_⟩, .inr (by simp [hw.verdicts])⟩
      · simp only [State.conclude_blk, State.setPhase_csAsserted, State.deselected_csAsserted, hc, hw.csAsserted]
        by_cases h : s.blk.selCount = 0 <;> simp [h]
      · simp [hw.events, hc, State.closeEvents]
    | fault f u =>
      rw [hb] at hin
      obtain ⟨evs, hw, hle, hfit, hff⟩ := hin
      simp only [State.selected_selCount, State.setPhase_selCount, State.selected_cfg, State.setPhase_cfg] at hle hfit hff hf
      rw [operation_fault (by simpa using hf) hb]
      simp only [Exit.andThen, Exit.finish]
      right
      refine ⟨by simp [hw.cfg], by simp; omega, fun _ => by simp; omega, fun _ => ?_, ?_, by simp, by simp [hw.second],
        by simp [hw.inbox], ⟨evs, hw.bound, hw.exchanges, by simp [hw.events]⟩, ⟨f, hff, by simp [hw.verdicts]⟩⟩
      · simpa [hw.cfg] using hfit hf
      · by_cases h : s.blk.selCount = 0 <;> simp [hw.csAsserted, h]

/-- A bus operation whose result is its body's (every host operation). -/
theorem serve_operation_cases' {P : List Byte → Prop} {n : Nat} {i : Instr} {body : State → Exit Result}
    {s : State} (hr : s.ready = true)
    (hbody : ∀ u : State, u.blk.cfg = s.blk.cfg → u.blk.selCount ≠ 0 → (body u).Inside P n u) :
    Completed P n s (serve i (operation body) s) ∨ Broken P n s (serve i (operation body) s) := by
  have h := serve_operation_cases (i := i) (use := fun v w => .ret v w) hr hbody (fun _ _ v _ w => ⟨v, rfl⟩)
  have he : (fun t => (operation body t).andThen fun v w => Exit.ret v w) = operation body := by
    funext t
    cases operation body t <;> rfl
  rwa [he] at h

/-! ### The frames an instruction sends -/

/-- The frames each instruction may send, on an instance that drives potentiometer `p` (R42, R71). -/
def Sends (p : PotIndex) (i : Instr) (tx : List Byte) : Prop :=
  match i with
  | .write a data => tx = dataFrame a .write data
  | .incr a => tx = buildFrame a .increment none
  | .decr a => tx = buildFrame a .decrement none
  | .read a data => tx = dataFrame a .read data
  | .writeWiper0 v => tx = buildFrame (wiperAddr .pot0) .write (some v)
  | .writeWiper1 v => tx = buildFrame (wiperAddr .pot1) .write (some v)
  | .incrWiper0 => tx = buildFrame (wiperAddr .pot0) .increment none
  | .incrWiper1 => tx = buildFrame (wiperAddr .pot1) .increment none
  | .decrWiper0 => tx = buildFrame (wiperAddr .pot0) .decrement none
  | .decrWiper1 => tx = buildFrame (wiperAddr .pot1) .decrement none
  | .readWiper0 => tx = readFrame (wiperAddr .pot0)
  | .readWiper1 => tx = readFrame (wiperAddr .pot1)
  | .readTcon => tx = readFrame tconAddr
  | .writeTcon n => tx = tconWriteFrame n
  | .readStatus => tx = readFrame statusAddr
  | .increment => tx = buildFrame (wiperAddr p) .increment none
  | .decrement => tx = buildFrame (wiperAddr p) .decrement none
  | .set v => ∃ c : Cfg, c.potIndex = p ∧ tx = buildFrame (wiperAddr p) .write (some (clampedValue c v.toNat))
  | .get => tx = readFrame (wiperAddr p)
  | .setTerminalAStatus _ => tx = readFrame tconAddr ∨ ∃ n, tx = tconWriteFrame n
  | .setTerminalBStatus _ => tx = readFrame tconAddr ∨ ∃ n, tx = tconWriteFrame n
  | .setWiperStatus _ => tx = readFrame tconAddr ∨ ∃ n, tx = tconWriteFrame n
  | .setShutdownStatus _ => tx = readFrame tconAddr ∨ ∃ n, tx = tconWriteFrame n
  | .getTerminalAStatus => tx = readFrame tconAddr
  | .getTerminalBStatus => tx = readFrame tconAddr
  | .getWiperStatus => tx = readFrame tconAddr
  | .getShutdownStatus => tx = readFrame tconAddr
  | .getHardwareShutdownStatus => tx = readFrame statusAddr
  | .buildFrame _ _ _ => False
  | .decodeWiper _ _ => False
  | .decodeRegByte _ _ => False
  | .maxValue => False
  | .select => False
  | .deselect => False

/-! ### The bodies of the operations -/

/-- A wiper command's body. -/
theorem wiperCommand_inside {P : List Byte → Prop} {command : Command} {data : Option U9} {u : State}
    (hs : u.blk.selCount ≠ 0) (hP : P (buildFrame u.wiperAddr command data)) :
    ((transfer (buildFrame u.wiperAddr command data) u).andThen ignoreResponse).Inside P 1 u :=
  Exit.inside_andThen (m := 1) (n := 0) (transfer_inside hs hP) fun _ _ _ _ _ => Exit.inside_ret

/-- A one-frame read's body. -/
theorem readBody_inside {P : List Byte → Prop} {tx : List Byte} {k : Byte → Byte → State → Result} {u : State}
    (hs : u.blk.selCount ≠ 0) (hP : P tx) :
    ((transfer tx u).andThen fun rx w => withPair rx (fun r0 r1 => .ret (k r0 r1 w) w) w).Inside P 1 u :=
  Exit.inside_andThen (m := 1) (n := 0) (transfer_inside hs hP) fun _ _ _ _ _ =>
    withPair_inside fun _ _ => Exit.inside_ret

/-- The read-modify-write's body: at most two exchanges. -/
theorem tconBody_inside {P : List Byte → Prop} {m : Byte} {setting : Bool} {u : State} (hs : u.blk.selCount ≠ 0)
    (hR : P (readFrame tconAddr)) (hW : ∀ n, P (tconWriteFrame n)) :
    ((transfer (readFrame tconAddr) u).andThen fun rx w =>
      withPair rx (fun r0 r1 =>
        (transfer (tconWriteFrame (forceBit (decodeRegByte r0 r1) (w.effMask m) setting)) w).andThen ignoreResponse)
        w).Inside P 2 u :=
  Exit.inside_andThen (m := 1) (n := 1) (transfer_inside hs hR) fun _ _ _ _ hc =>
    withPair_inside fun _ _ =>
      Exit.inside_andThen (m := 1) (n := 0) (transfer_inside (by rw [hc]; exact hs) (hW _)) fun _ _ _ _ _ =>
        Exit.inside_ret

/-- A checked exchange that returns, returns the frame's length (R92). -/
theorem exchangeChecked_length {tx rx : List Byte} {t u : State} (h : exchangeChecked tx t = .ret rx u) :
    rx.length = tx.length := by
  unfold exchangeChecked at h
  split at h
  · simp at h
  · split at h
    · simp at h
    · split at h
      · simp only [Exit.ret.injEq] at h
        rw [← h.1]
        assumption
      · simp at h

/-- A frame instruction that answers a next state completes, breaks, or was not admitted by the instance. -/
theorem serveFrame_cases {i : Instr} {tx : List Byte} {use : List Byte → State → Exit Result} {s t : State}
    (h : serveFrame i tx use s = .next t) (huse : ∀ rx, rx.length = tx.length → ∀ w, ∃ r, use rx w = .ret r w) :
    (s.ready = false ∧ t = s.conclude (.denied .notReady)) ∨
    (s.ready = true ∧ (Completed (· = tx) 1 s t ∨ Broken (· = tx) 1 s t)) := by
  unfold serveFrame at h
  split at h
  · simp at h
  · simp only [Host.Outcome.next.injEq] at h
    subst h
    cases hr : s.ready with
    | false => exact .inl ⟨rfl, serve_notReady hr⟩
    | true =>
      refine .inr ⟨rfl, ?_⟩
      exact serve_operation_cases hr (fun u _ hs => exchangeChecked_inside hs rfl)
        (fun t u v hv w => huse v (exchangeChecked_length hv) w)

/-- A host operation on the bus, served: not admitted, completed or broken. -/
theorem serve_cases {P : List Byte → Prop} {n : Nat} {i : Instr} {body : State → Exit Result} {s t : State}
    (h : (Host.Outcome.next (serve i (operation body) s) : Host.Outcome State Fault Refusal) = .next t)
    (hbody : ∀ u : State, u.blk.cfg = s.blk.cfg → u.blk.selCount ≠ 0 → (body u).Inside P n u) :
    (s.ready = false ∧ t = s.conclude (.denied .notReady)) ∨
    (s.ready = true ∧ (Completed P n s t ∨ Broken P n s t)) := by
  simp only [Host.Outcome.next.injEq] at h
  subst h
  cases hr : s.ready with
  | false => exact .inl ⟨rfl, serve_notReady hr⟩
  | true => exact .inr ⟨rfl, serve_operation_cases' hr hbody⟩

/-- `Completed` with more frames allowed and more exchanges. -/
theorem Completed.weaken {P Q : List Byte → Prop} {m n : Nat} {s t : State} (h : Completed P m s t)
    (hPQ : ∀ tx, P tx → Q tx) (hmn : m ≤ n) : Completed Q n s t := by
  obtain ⟨evs, hb, he, hev⟩ := h.events
  refine ⟨h.cfg, h.selCount, h.csAsserted, h.phase, h.faulted, h.second, h.inbox, ⟨evs, hb.trans hmn, ?_, hev⟩,
    h.verdict⟩
  intro e hm
  have := he e hm
  cases e <;> simp_all [Event.IsExchange]

/-- `Broken` with more frames allowed and more exchanges. -/
theorem Broken.weaken {P Q : List Byte → Prop} {m n : Nat} {s t : State} (h : Broken P m s t)
    (hPQ : ∀ tx, P tx → Q tx) (hmn : m ≤ n) : Broken Q n s t := by
  obtain ⟨evs, hb, he, hev⟩ := h.events
  refine ⟨h.cfg, h.selCount, h.held, h.fits, h.csAsserted, h.faulted, h.second, h.inbox,
    ⟨evs, hb.trans hmn, ?_, hev⟩, h.verdict⟩
  intro e hm
  have := he e hm
  cases e <;> simp_all [Event.IsExchange]

/-- Every kind of next state `exec` can answer: the codec and `max_value` only record a result; a request that is not
admitted only records that; `select` and `deselect` move the counter; every other instruction is a bus operation. -/
def NextCases (i : Instr) (s t : State) : Prop :=
  (i.usesBus = false ∧ ∃ v, t = s.conclude v ∧ ∀ f, v ≠ .fault f) ∨
  (i.usesBus = true ∧ s.ready = false ∧ t = s.conclude (.denied .notReady)) ∨
  (i = .select ∧ s.ready = true ∧ t = serve .select (fun u => (selectStep u).andThen fun _ w => .ret .unit w) s) ∨
  (i = .deselect ∧ s.ready = true ∧
    t = serve .deselect (fun u => (deselectStep u).andThen fun _ w => .ret .unit w) s) ∨
  (i.usesBus = true ∧ i ≠ .select ∧ i ≠ .deselect ∧ s.ready = true ∧
    (Completed (Sends s.blk.cfg.potIndex i) 2 s t ∨ Broken (Sends s.blk.cfg.potIndex i) 2 s t))

/-- A bus operation's cases are among them. -/
theorem NextCases.of_bus {i : Instr} {s t : State} {P : List Byte → Prop} {n : Nat} (hb : i.usesBus = true)
    (hs : i ≠ .select) (hd : i ≠ .deselect) (hP : ∀ tx, P tx → Sends s.blk.cfg.potIndex i tx) (hn : n ≤ 2)
    (hc : (s.ready = false ∧ t = s.conclude (.denied .notReady)) ∨
      (s.ready = true ∧ (Completed P n s t ∨ Broken P n s t))) : NextCases i s t :=
  hc.elim (fun hc => .inr (.inl ⟨hb, hc.1, hc.2⟩)) fun hc =>
    .inr (.inr (.inr (.inr ⟨hb, hs, hd, hc.1, hc.2.imp (·.weaken hP hn) (·.weaken hP hn)⟩)))

/-- The inversion of `exec`. -/
theorem exec_next_cases {i : Instr} {s t : State} (h : exec i s = .next t) : NextCases i s t := by
  have ignore : ∀ tx rx : List Byte, rx.length = tx.length → ∀ w, ∃ r, ignoreResponse rx w = .ret r w :=
    fun _ _ _ w => ⟨.unit, rfl⟩
  have wiper : ∀ rx : List Byte, rx.length = 2 → ∀ w, ∃ r, wiperResponse rx w = .ret r w := by
    intro rx hl w
    obtain ⟨a, b, rfl⟩ := eq_pair_of_length hl
    exact ⟨_, rfl⟩
  have reg : ∀ rx : List Byte, rx.length = 2 → ∀ w, ∃ r, regResponse rx w = .ret r w := by
    intro rx hl w
    obtain ⟨a, b, rfl⟩ := eq_pair_of_length hl
    exact ⟨_, rfl⟩
  have len2 : ∀ a, (readFrame a).length = 2 := by
    intro a
    simp [readFrame, readSentinel, buildFrame]
  cases i with
  | write a data => exact NextCases.of_bus rfl (by simp) (by simp) (fun _ h => h) (by omega) (serveFrame_cases h (ignore _))
  | incr a => exact NextCases.of_bus rfl (by simp) (by simp) (fun _ h => h) (by omega) (serveFrame_cases h (ignore _))
  | decr a => exact NextCases.of_bus rfl (by simp) (by simp) (fun _ h => h) (by omega) (serveFrame_cases h (ignore _))
  | read a data =>
    refine NextCases.of_bus rfl (by simp) (by simp) (fun _ h => h) (by omega) (serveFrame_cases h ?_)
    intro rx hl w
    unfold readResponse
    split
    · exact wiper rx hl w
    · split
      · exact reg rx hl w
      · exact ⟨_, rfl⟩
  | writeWiper0 v => exact NextCases.of_bus rfl (by simp) (by simp) (fun _ h => h) (by omega) (serveFrame_cases h (ignore _))
  | writeWiper1 v => exact NextCases.of_bus rfl (by simp) (by simp) (fun _ h => h) (by omega) (serveFrame_cases h (ignore _))
  | incrWiper0 => exact NextCases.of_bus rfl (by simp) (by simp) (fun _ h => h) (by omega) (serveFrame_cases h (ignore _))
  | incrWiper1 => exact NextCases.of_bus rfl (by simp) (by simp) (fun _ h => h) (by omega) (serveFrame_cases h (ignore _))
  | decrWiper0 => exact NextCases.of_bus rfl (by simp) (by simp) (fun _ h => h) (by omega) (serveFrame_cases h (ignore _))
  | decrWiper1 => exact NextCases.of_bus rfl (by simp) (by simp) (fun _ h => h) (by omega) (serveFrame_cases h (ignore _))
  | readWiper0 =>
    exact NextCases.of_bus rfl (by simp) (by simp) (fun _ h => h) (by omega)
      (serveFrame_cases h fun rx hl => wiper rx (hl.trans (len2 _)))
  | readWiper1 =>
    exact NextCases.of_bus rfl (by simp) (by simp) (fun _ h => h) (by omega)
      (serveFrame_cases h fun rx hl => wiper rx (hl.trans (len2 _)))
  | readTcon =>
    exact NextCases.of_bus rfl (by simp) (by simp) (fun _ h => h) (by omega)
      (serveFrame_cases h fun rx hl => reg rx (hl.trans (len2 _)))
  | writeTcon n => exact NextCases.of_bus rfl (by simp) (by simp) (fun _ h => h) (by omega) (serveFrame_cases h (ignore _))
  | readStatus =>
    exact NextCases.of_bus rfl (by simp) (by simp) (fun _ h => h) (by omega)
      (serveFrame_cases h fun rx hl => reg rx (hl.trans (len2 _)))
  | buildFrame address command data => exact .inl ⟨rfl, _, (Host.Outcome.next.inj h).symm, by simp⟩
  | decodeWiper r0 r1 => exact .inl ⟨rfl, _, (Host.Outcome.next.inj h).symm, by simp⟩
  | decodeRegByte r0 r1 => exact .inl ⟨rfl, _, (Host.Outcome.next.inj h).symm, by simp⟩
  | maxValue =>
    have h' := (Host.Outcome.next.inj h).symm
    cases hr : s.ready with
    | false => exact .inl ⟨rfl, _, h'.trans (serve_notReady hr), by simp⟩
    | true =>
      refine .inl ⟨rfl, .ok (.nat (maxValue s.blk.cfg)), h'.trans ?_, by simp⟩
      have hp := (State.ready_iff s).1 hr
      rw [serve_ready hr]
      refine State.eq_of_fields (Block.eq_of_fields ?_ ?_ ?_ ?_ ?_) ?_ ?_ ?_ ?_ ?_ ?_ <;>
        simp [Exit.finish, hp]
  | increment =>
    exact NextCases.of_bus rfl (by simp) (by simp) (fun _ h => h) (by omega)
      (serve_cases h fun u hc hs => wiperCommand_inside hs (by simp [Sends, State.wiperAddr, hc]))
  | decrement =>
    exact NextCases.of_bus rfl (by simp) (by simp) (fun _ h => h) (by omega)
      (serve_cases h fun u hc hs => wiperCommand_inside hs (by simp [Sends, State.wiperAddr, hc]))
  | set value =>
    by_cases hv : value < 0
    · refine .inl ⟨by simp [Instr.usesBus, hv], .denied .negativeValue, ?_, by simp⟩
      simp only [exec, execSet, hv, if_true, Host.Outcome.next.injEq] at h
      exact h.symm
    · simp only [exec, execSet, hv, if_false] at h
      exact NextCases.of_bus (by simp only [Instr.usesBus, decide_eq_true_eq]; omega) (by simp) (by simp) (fun _ h => h) (by omega)
        (serve_cases h fun u hc hs => wiperCommand_inside hs ⟨s.blk.cfg, rfl, by simp [State.wiperAddr, hc]⟩)
  | get =>
    exact NextCases.of_bus rfl (by simp) (by simp) (fun _ h => h) (by omega)
      (serve_cases h fun u hc hs => readBody_inside hs (by simp [Sends, State.wiperAddr, hc]))
  | setTerminalAStatus flag =>
    exact NextCases.of_bus rfl (by simp) (by simp) (fun _ h => h) (by omega)
      (serve_cases h fun u hc hs => tconBody_inside hs (.inl rfl) fun n => .inr ⟨n, rfl⟩)
  | setTerminalBStatus flag =>
    exact NextCases.of_bus rfl (by simp) (by simp) (fun _ h => h) (by omega)
      (serve_cases h fun u hc hs => tconBody_inside hs (.inl rfl) fun n => .inr ⟨n, rfl⟩)
  | setWiperStatus flag =>
    exact NextCases.of_bus rfl (by simp) (by simp) (fun _ h => h) (by omega)
      (serve_cases h fun u hc hs => tconBody_inside hs (.inl rfl) fun n => .inr ⟨n, rfl⟩)
  | getTerminalAStatus =>
    exact NextCases.of_bus rfl (by simp) (by simp) (fun _ h => h) (by omega)
      (serve_cases h fun u hc hs => readBody_inside hs rfl)
  | getTerminalBStatus =>
    exact NextCases.of_bus rfl (by simp) (by simp) (fun _ h => h) (by omega)
      (serve_cases h fun u hc hs => readBody_inside hs rfl)
  | getWiperStatus =>
    exact NextCases.of_bus rfl (by simp) (by simp) (fun _ h => h) (by omega)
      (serve_cases h fun u hc hs => readBody_inside hs rfl)
  | setShutdownStatus flag =>
    exact NextCases.of_bus rfl (by simp) (by simp) (fun _ h => h) (by omega)
      (serve_cases h fun u hc hs => tconBody_inside hs (.inl rfl) fun n => .inr ⟨n, rfl⟩)
  | getShutdownStatus =>
    exact NextCases.of_bus rfl (by simp) (by simp) (fun _ h => h) (by omega)
      (serve_cases h fun u hc hs => readBody_inside hs rfl)
  | getHardwareShutdownStatus =>
    exact NextCases.of_bus rfl (by simp) (by simp) (fun _ h => h) (by omega)
      (serve_cases h fun u hc hs => readBody_inside hs rfl)
  | select =>
    have h' := (Host.Outcome.next.inj h).symm
    cases hr : s.ready with
    | false => exact .inr (.inl ⟨rfl, hr, h'.trans (serve_notReady hr)⟩)
    | true => exact .inr (.inr (.inl ⟨rfl, hr, h'⟩))
  | deselect =>
    have h' := (Host.Outcome.next.inj h).symm
    cases hr : s.ready with
    | false => exact .inr (.inl ⟨rfl, hr, h'.trans (serve_notReady hr)⟩)
    | true => exact .inr (.inr (.inr (.inl ⟨rfl, hr, h'⟩)))

/-! ### The host's select and deselect, by cases -/

/-- An accepted `select` counts up, or overflows a finite counter (R90, R96). -/
theorem serve_select_cases {s : State} (hr : s.ready = true) :
    (s.blk.cfg.fits (s.blk.selCount + 1) = true ∧
      serve .select (fun u => (selectStep u).andThen fun _ w => .ret .unit w) s =
        (((s.setPhase (.busy .select 0)).selected).setPhase .idle).conclude (.ok .unit)) ∨
    (s.blk.cfg.fits (s.blk.selCount + 1) = false ∧
      serve .select (fun u => (selectStep u).andThen fun _ w => .ret .unit w) s =
        (s.setPhase (.busy .select 0)).assertLine.enterFault .selectOverflow) := by
  rw [serve_ready hr]
  cases hf : s.blk.cfg.fits (s.blk.selCount + 1) with
  | true =>
    refine .inl ⟨rfl, ?_⟩
    rw [selectStep_ret (by simpa using hf)]
    rfl
  | false =>
    refine .inr ⟨rfl, ?_⟩
    rw [selectStep_overflow (by simpa using hf)]
    rfl

/-- An accepted `deselect` counts down, or faults at 0 (R91, R97). -/
theorem serve_deselect_cases {s : State} (hr : s.ready = true) :
    (s.blk.selCount ≠ 0 ∧
      serve .deselect (fun u => (deselectStep u).andThen fun _ w => .ret .unit w) s =
        (((s.setPhase (.busy .deselect 0)).deselected).setPhase .idle).conclude (.ok .unit)) ∨
    (s.blk.selCount = 0 ∧
      serve .deselect (fun u => (deselectStep u).andThen fun _ w => .ret .unit w) s =
        (s.setPhase (.busy .deselect 0)).enterFault .deselectUnderflow) := by
  rw [serve_ready hr]
  by_cases h0 : s.blk.selCount = 0
  · refine .inr ⟨h0, ?_⟩
    rw [deselectStep_underflow (by simpa using h0)]
    rfl
  · refine .inl ⟨h0, ?_⟩
    rw [deselectStep_ret (by simpa using h0)]
    rfl

end Sys2Proof.Machine
end

