-- ==== Sys2Proof/Laws/History.lean ====
section
/-! SUPPORT. Histories piece by piece: the line's level, what a history is allowed to do, and its turns, over one piece after
another and over exchanges alone. -/

namespace Sys2Proof.Machine

/-- The level after two pieces. -/
theorem lineLevel_append (es fs : List Event) (b : Bool) :
    lineLevel b (es ++ fs) = lineLevel (lineLevel b es) fs := by
  simp [lineLevel]

/-- Two pieces are allowed when each is, from the level it finds. -/
theorem historyAllowed_append (es fs : List Event) (b : Bool) :
    historyAllowed b (es ++ fs) = (historyAllowed b es && historyAllowed (lineLevel b es) fs) := by
  induction es generalizing b with
  | nil => rfl
  | cons e es ih => simp [historyAllowed, ih, lineLevel, Bool.and_assoc]

/-- Two pieces are in turn when each is, from the level it finds. -/
theorem alternates_append (es fs : List Event) (b : Bool) :
    alternates b (es ++ fs) = (alternates b es && alternates (lineLevel b es) fs) := by
  induction es generalizing b with
  | nil => rfl
  | cons e es ih => cases e <;> simp [alternates, ih, lineLevel, Event.drives, Bool.and_assoc]

/-- Exchanges alone leave the line where it is. -/
theorem lineLevel_exchanges {P : List Byte → Prop} {evs : List Event} (h : ∀ e ∈ evs, e.IsExchange P) (b : Bool) :
    lineLevel b evs = b := by
  induction evs with
  | nil => rfl
  | cons e es ih =>
    have h1 := h e (by simp)
    have h2 := ih fun e he => h e (by simp [he])
    cases e <;> simp_all [Event.IsExchange, lineLevel, Event.drives]

/-- Exchanges alone are allowed while the line is asserted. -/
theorem historyAllowed_exchanges {P : List Byte → Prop} {evs : List Event} (h : ∀ e ∈ evs, e.IsExchange P) :
    historyAllowed true evs = true := by
  induction evs with
  | nil => rfl
  | cons e es ih =>
    have h1 := h e (by simp)
    have h2 := ih fun e he => h e (by simp [he])
    cases e <;> simp_all [historyAllowed, Event.allowed, Event.IsExchange, Event.drives]

/-- Exchanges alone are in turn. -/
theorem alternates_exchanges {P : List Byte → Prop} {evs : List Event} (h : ∀ e ∈ evs, e.IsExchange P) (b : Bool) :
    alternates b evs = true := by
  induction evs with
  | nil => rfl
  | cons e es ih =>
    have h1 := h e (by simp)
    have h2 := ih fun e he => h e (by simp [he])
    cases e <;> simp_all [alternates, Event.IsExchange]

end Sys2Proof.Machine
end

