-- ==== Sys2Proof/Laws/PerInstr.lean ====
section
/-! SUPPORT. Laws made per instruction. `EncodedShape`: the encoding of a frame row is a control byte with the reserved bit
set (R65) and has the length its command field tells (R72). -/

namespace Sys2Proof.Laws.EncodedShape

/-- What `EncodedShape` says of one instruction. -/
def Statement (i : Instr) : Prop :=
  ∀ bs, encode i = some bs → ∃ c rest, bs = c :: rest ∧ ctrlReserved c = true ∧ bs.length = frameLength c

/-- A 1-byte frame has the shape. -/
theorem of_ctrl {i : Instr} {a : U4} {c : Command} (h : encode i = some [ctrlByte a c false])
    (hc : frameLength (ctrlByte a c false) = 1) : Statement i := by
  intro bs hb
  rw [h] at hb
  cases hb
  exact ⟨_, [], rfl, ctrlReserved_ctrlByte _ _ _, by simp [hc]⟩

/-- A 2-byte frame has the shape. -/
theorem of_data {i : Instr} {a : U4} {c : Command} {v : U9} (h : encode i = some (dataFrame a c v))
    (hc : ∀ d8, frameLength (ctrlByte a c d8) = 2) : Statement i := by
  intro bs hb
  rw [h] at hb
  cases hb
  exact ⟨_, _, rfl, ctrlReserved_ctrlByte _ _ _, by simp [dataFrame, hc]⟩

/-- A row with no encoding has the shape, there being nothing to show. -/
theorem of_none {i : Instr} (h : encode i = none) : Statement i := by
  intro bs hb
  rw [h] at hb
  cases hb

theorem write (a : U4) (data : U9) : Statement (.write a data) := of_data rfl (by simp [frameLength])
theorem incr (a : U4) : Statement (.incr a) := of_ctrl rfl (by simp [frameLength])
theorem decr (a : U4) : Statement (.decr a) := of_ctrl rfl (by simp [frameLength])
theorem read (a : U4) (data : U9) : Statement (.read a data) := of_data rfl (by simp [frameLength])
theorem writeWiper0 (v : U9) : Statement (.writeWiper0 v) := of_data rfl (by simp [frameLength])
theorem writeWiper1 (v : U9) : Statement (.writeWiper1 v) := of_data rfl (by simp [frameLength])
theorem incrWiper0 : Statement .incrWiper0 := of_ctrl rfl (by simp [frameLength])
theorem incrWiper1 : Statement .incrWiper1 := of_ctrl rfl (by simp [frameLength])
theorem decrWiper0 : Statement .decrWiper0 := of_ctrl rfl (by simp [frameLength])
theorem decrWiper1 : Statement .decrWiper1 := of_ctrl rfl (by simp [frameLength])
theorem readWiper0 : Statement .readWiper0 := of_data rfl (by simp [frameLength])
theorem readWiper1 : Statement .readWiper1 := of_data rfl (by simp [frameLength])
theorem readTcon : Statement .readTcon := of_data rfl (by simp [frameLength])
theorem writeTcon (n : Byte) : Statement (.writeTcon n) := of_data rfl (by simp [frameLength])
theorem readStatus : Statement .readStatus := of_data rfl (by simp [frameLength])
theorem buildFrame (address : U4) (command : Command) (data : Option U9) : Statement (.buildFrame address command data) := of_none rfl
theorem decodeWiper (r0 : Byte) (r1 : Byte) : Statement (.decodeWiper r0 r1) := of_none rfl
theorem decodeRegByte (r0 : Byte) (r1 : Byte) : Statement (.decodeRegByte r0 r1) := of_none rfl
theorem maxValue : Statement .maxValue := of_none rfl
theorem increment : Statement .increment := of_none rfl
theorem decrement : Statement .decrement := of_none rfl
theorem set (value : Int) : Statement (.set value) := of_none rfl
theorem get : Statement .get := of_none rfl
theorem setTerminalAStatus (flag : Bool) : Statement (.setTerminalAStatus flag) := of_none rfl
theorem setTerminalBStatus (flag : Bool) : Statement (.setTerminalBStatus flag) := of_none rfl
theorem setWiperStatus (flag : Bool) : Statement (.setWiperStatus flag) := of_none rfl
theorem getTerminalAStatus : Statement .getTerminalAStatus := of_none rfl
theorem getTerminalBStatus : Statement .getTerminalBStatus := of_none rfl
theorem getWiperStatus : Statement .getWiperStatus := of_none rfl
theorem setShutdownStatus (flag : Bool) : Statement (.setShutdownStatus flag) := of_none rfl
theorem getShutdownStatus : Statement .getShutdownStatus := of_none rfl
theorem getHardwareShutdownStatus : Statement .getHardwareShutdownStatus := of_none rfl
theorem select : Statement .select := of_none rfl
theorem deselect : Statement .deselect := of_none rfl

end Sys2Proof.Laws.EncodedShape
end

