-- ==== Sys2Proof/Machine/Wire.lean ====
section
/-! DEFINITION. The transport's side of the interface, in terms of its two OPEN parameters (R11, R48): the electrical level
of the chip-select pin and the order of a byte's bits on the wire. -/

namespace Sys2Proof.Machine

/-- The chip-select pin's level: `CS_ACTIVE_LEVEL` while the line is asserted, the other level while it is not. -/
def State.csPin (s : State) : Bool := if s.csLine then Config.csActiveLevel else !Config.csActiveLevel

/-- A byte's bits, bit 7 first. -/
def bitsMsbFirst (b : Byte) : List Bool :=
  [b.getLsbD 7, b.getLsbD 6, b.getLsbD 5, b.getLsbD 4, b.getLsbD 3, b.getLsbD 2, b.getLsbD 1, b.getLsbD 0]

/-- A byte's bits in the order the transport shifts them (`WIRE_BIT_ORDER`). -/
def wireBits (b : Byte) : List Bool :=
  if Config.wireMsbFirst then bitsMsbFirst b else (bitsMsbFirst b).reverse

/-- A frame's bits on the wire: the control byte comes first (R46). -/
def frameWireBits (tx : List Byte) : List Bool := tx.flatMap wireBits

end Sys2Proof.Machine
end

