-- ==== Sys2Proof/Tests/Slice0.lean ====
section
/-! SUPPORT. Small tests of the model, each expected value taken from spec/95_test_vectors.md or worked by hand from the rule
its comment cites, and the witnesses: for every statement with hypotheses, a concrete input that meets them all. -/

namespace Sys2Proof.Tests
open Sys2Proof.Machine Sys2Proof.Claims

/-! ### Helpers -/

/-- Configurations in the notation of spec/95_test_vectors.md. -/
def cfg8P (p : PotIndex) : Cfg := { potIndex := p, resolution := .bits8, wiperMode := .potentiometer, selWidth := none }
def cfg7R (p : PotIndex) : Cfg := { potIndex := p, resolution := .bits7, wiperMode := .rheostat, selWidth := none }
def cfgWidth2 : Cfg := { cfg8P .pot0 with selWidth := some 2 }

/-- A fresh instance whose next exchanges are answered as written. -/
def fresh (c : Cfg) (answers : List Answer) : State := { State.construct c with link := .real answers }

/-- `s` inside `n` host selections. -/
def held (n : Nat) (s : State) : State := (s.setSelCount n).setCs (decide (0 < n))

/-- `s` after a fault. -/
def faultedState (s : State) : State := { s with blk := { s.blk with faulted := true } }

/-- A reference device with wiper 0 at 0x80, wiper 1 at 50, TCON 0xFF, STATUS 0x02, both bounds 256. -/
def device : RefDevice :=
  { wiper0 := 0x80#9, wiper1 := 50#9, tcon := 0xFF#8, status := 0x02#8, dmax0 := 256#9, dmax1 := 256#9 }

/-- A fresh instance on that device. -/
def onDevice (c : Cfg) : State := { State.construct c with link := .reference device [] }

/-- Two instances on one chip with one pending request. -/
def pairWith (sl : Slot) (i : Instr) : State :=
  { State.constructPair (cfg8P .pot0) (cfg8P .pot1) with
    link := .real [.received [0x00#8, 0xFF#8]], inbox := [{ slot := sl, order := .call i }] }

/-- A property of the next state. -/
def nextIs (o : Host.Outcome State Fault Refusal) (f : State → Bool) : Bool :=
  match o with
  | .next s => f s
  | .fault _ => false
  | .refused _ => false

/-- The request for which the run stops. -/
def refusedWith (o : Host.Outcome State Fault Refusal) (r : Refusal) : Bool :=
  match o with
  | .next _ => false
  | .fault _ => false
  | .refused q => q == r

/-- The next state's history and outcomes. -/
def shows (o : Host.Outcome State Fault Refusal) (evs : List Event) (v : Verdict) : Bool :=
  nextIs o fun s => s.events == evs && s.verdicts == [v]

/-- One exchange inside one chip-select assertion. -/
def one (tx rx : List Byte) : List Event := [.csAssert, .exchange tx rx, .csDeassert]

/-! ### Well-formedness refuses (R68, R71) -/

theorem test_wf_write_to_wiper0 : (Instr.write 0x0 5).wf = false := by decide
theorem test_wf_write_to_wiper1_full : (Instr.write 0x1 256).wf = false := by decide
theorem test_wf_write_to_tcon : (Instr.write 0x4 0x0FD).wf = false := by decide
theorem test_wf_write_bit8_to_wiper0 : (Instr.write 0x0 257).wf = true := by decide
theorem test_wf_incr_wiper0 : (Instr.incr 0x0).wf = false := by decide
theorem test_wf_decr_wiper1 : (Instr.decr 0x1).wf = false := by decide
theorem test_wf_read_status : (Instr.read 0x5 0x1FF).wf = false := by decide
theorem test_wf_writeWiper0 : (Instr.writeWiper0 257).wf = false := by decide
theorem test_wf_writeWiper1 : (Instr.writeWiper1 0x1FF).wf = false := by decide
theorem test_wf_set_negative : (Instr.set (-1)).wf = false := by decide

/-! ### Words written out from the encodings of R60, R62, R64, R71 -/

theorem test_decode_write : decode [0b00100010, 0b00000000] = .ok (.write 0x2 0, []) := by decide
theorem test_decode_write_d8 : decode [0b01000011, 0b00000001] = .ok (.write 0x4 0x101, []) := by decide
theorem test_decode_incr : decode [0b01010110] = .ok (.incr 0x5, []) := by decide
theorem test_decode_decr : decode [0b10001010] = .ok (.decr 0x8, []) := by decide
theorem test_decode_read : decode [0b11111111, 0b11111111] = .ok (.read 0xF 0x1FF, []) := by decide
theorem test_decode_read_low : decode [0b00001110, 0b00000000] = .ok (.read 0x0 0, []) := by decide
theorem test_decode_writeWiper0 : decode [0b00000011, 0b00000000] = .ok (.writeWiper0 256, []) := by decide
theorem test_decode_writeWiper1 : decode [0b00010010, 0b01100100] = .ok (.writeWiper1 100, []) := by decide
theorem test_decode_incrWiper0 : decode [0b00000110] = .ok (.incrWiper0, []) := by decide
theorem test_decode_incrWiper1 : decode [0b00010110] = .ok (.incrWiper1, []) := by decide
theorem test_decode_decrWiper0 : decode [0b00001010] = .ok (.decrWiper0, []) := by decide
theorem test_decode_decrWiper1 : decode [0b00011010] = .ok (.decrWiper1, []) := by decide
theorem test_decode_readWiper0 : decode [0b00001111, 0b11111111] = .ok (.readWiper0, []) := by decide
theorem test_decode_readWiper1 : decode [0b00011111, 0b11111111] = .ok (.readWiper1, []) := by decide
theorem test_decode_readTcon : decode [0b01001111, 0b11111111] = .ok (.readTcon, []) := by decide
theorem test_decode_writeTcon : decode [0b01000010, 0b11111101] = .ok (.writeTcon 0xFD, []) := by decide
theorem test_decode_writeTcon_zero : decode [0b01000011, 0b00000000] = .ok (.writeTcon 0x00, []) := by decide
theorem test_decode_readStatus : decode [0b01011111, 0b11111111] = .ok (.readStatus, []) := by decide
theorem test_decode_rest : decode [0b00000110, 0b00001010] = .ok (.incrWiper0, [0b00001010]) := by decide

/-! ### Bytes that are no frame (R72, R74) -/

theorem test_reject_empty : decode [] = .error .empty := by decide
theorem test_reject_reserved : decode [0b00000100, 0b00000000] = .error .reservedBitClear := by decide
theorem test_reject_ctrl_d8 : decode [0b00000111] = .error .ctrlFrameWithD8 := by decide
theorem test_reject_missing : decode [0b00000010] = .error .missingDataByte := by decide
theorem test_reject_trailing : decodeFrame [0b00000110, 0b00000101] = .error .trailingBytes := by decide

/-! ### The codec (vectors V-BF, V-DW, V-RT) -/

theorem test_buildFrame_full_scale : buildFrame 0x0 .write (some 256) = [0x03, 0x00] := by decide
theorem test_buildFrame_bit8_dropped : buildFrame 0x0 .write (some 0x1FE) = [0x02, 0xFE] := by decide
theorem test_decodeWiper_high_bits_ignored : decodeWiper 0xFE 0x80 = 128 := by decide
theorem test_decodeWiper_not_clamped : decodeWiper 0xFF 0xFF = 511 := by decide
theorem test_decodeRegByte : decodeRegByte 0x00 0xF7 = 0xF7 := by decide

/-! ### The wiper operations (vectors V-MV, V-SG, V-ID, V-FR) -/

theorem test_maxValue_7R : shows (exec .maxValue (fresh (cfg7R .pot1) [])) [] (.ok (.nat 127)) := by decide
theorem test_maxValue_8P : shows (exec .maxValue (fresh (cfg8P .pot0) [])) [] (.ok (.nat 256)) := by decide

theorem test_increment_pot1 :
    shows (exec .increment (fresh (cfg8P .pot1) [.received [0xAB]])) (one [0x16] [0xAB]) (.ok .unit) := by decide

/-- V-SEL-6. -/
theorem test_increment_held :
    shows (exec .increment (held 1 (fresh (cfg8P .pot0) [.received [0x06]]))) [.exchange [0x06] [0x06]]
      (.ok .unit) := by decide

theorem test_decrement_pot1 :
    shows (exec .decrement (fresh (cfg8P .pot1) [.received [0x00]])) (one [0x1A] [0x00]) (.ok .unit) := by decide

/-- V-SG-1. -/
theorem test_set_1000 :
    shows (exec (.set 1000) (fresh (cfg8P .pot0) [.received [0x03, 0x00]])) (one [0x03, 0x00] [0x03, 0x00])
      (.ok .unit) := by decide

/-- V-SG-9. -/
theorem test_set_200_7R :
    shows (exec (.set 200) (fresh (cfg7R .pot1) [.received [0x00, 0x00]])) (one [0x12, 0x7F] [0x00, 0x00])
      (.ok .unit) := by decide

theorem test_get_511_on_7R :
    shows (exec .get (fresh (cfg7R .pot1) [.received [0xFF, 0xFF]])) (one [0x1F, 0xFF] [0xFF, 0xFF])
      (.ok (.nat 511)) := by decide

/-- V-FR-4. -/
theorem test_get_short_answer :
    nextIs (exec .get (fresh (cfg8P .pot0) [.received [0x00]])) (fun s =>
      s.events == [.csAssert] && s.blk.faulted && s.blk.selCount == 2 && s.blk.csAsserted) := by decide

/-! ### TCON and STATUS (vectors V-TC, V-TG, V-HS) -/

/-- The events of a TCON setter that reads `old` and writes `new` with control byte `c`. -/
def rmw (old c new : Byte) : List Event :=
  [.csAssert, .exchange [0x4F, 0xFF] [0x00, old], .exchange [c, new] [c, new], .csDeassert]

/-- The answers of a device whose TCON is `old`. -/
def rmwAnswers (old c new : Byte) : List Answer := [.received [0x00, old], .received [c, new]]

/-- V-TC-25. -/
theorem test_set_terminal_a : shows (exec (.setTerminalAStatus true)
    (fresh (cfg8P .pot1) (rmwAnswers 0x00 0x42 0x40))) (rmw 0x00 0x42 0x40) (.ok .unit) := by decide

/-- V-TC-12. -/
theorem test_set_terminal_b : shows (exec (.setTerminalBStatus false)
    (fresh (cfg8P .pot0) (rmwAnswers 0xFF 0x42 0xFE))) (rmw 0xFF 0x42 0xFE) (.ok .unit) := by decide

/-- R109's example: the new byte is 0x00, so `D8 = 1`. -/
theorem test_set_terminal_b_zero : shows (exec (.setTerminalBStatus false)
    (fresh (cfg8P .pot0) (rmwAnswers 0x01 0x43 0x00))) (rmw 0x01 0x43 0x00) (.ok .unit) := by decide

/-- V-TC-38. -/
theorem test_set_wiper_status : shows (exec (.setWiperStatus false)
    (fresh (cfg8P .pot1) (rmwAnswers 0xFF 0x42 0xDF))) (rmw 0xFF 0x42 0xDF) (.ok .unit) := by decide

/-- V-TC-15: the setting is inverted. -/
theorem test_set_shutdown : shows (exec (.setShutdownStatus true)
    (fresh (cfg8P .pot0) (rmwAnswers 0xFF 0x42 0xF7))) (rmw 0xFF 0x42 0xF7) (.ok .unit) := by decide

/-- V-TC-40. -/
theorem test_clear_shutdown : shows (exec (.setShutdownStatus false)
    (fresh (cfg8P .pot1) (rmwAnswers 0xFF 0x43 0xFF))) (rmw 0xFF 0x43 0xFF) (.ok .unit) := by decide

/-- V-FL-1. -/
theorem test_setter_read_fails : shows (exec (.setWiperStatus false) (fresh (cfg8P .pot0) [.failed]))
    [.csAssert, .exchangeFail [0x4F, 0xFF], .csDeassert] .transportFailure := by decide

/-- V-TG-9. -/
theorem test_get_terminal_a : shows (exec .getTerminalAStatus (fresh (cfg8P .pot1) [.received [0x00, 0x5A]]))
    (one [0x4F, 0xFF] [0x00, 0x5A]) (.ok (.bool true)) := by decide

/-- V-TG-3. -/
theorem test_get_terminal_b : shows (exec .getTerminalBStatus (fresh (cfg8P .pot0) [.received [0x00, 0x5A]]))
    (one [0x4F, 0xFF] [0x00, 0x5A]) (.ok (.bool false)) := by decide

/-- V-TG-10. -/
theorem test_get_wiper_status : shows (exec .getWiperStatus (fresh (cfg8P .pot1) [.received [0xFF, 0xA5]]))
    (one [0x4F, 0xFF] [0xFF, 0xA5]) (.ok (.bool true)) := by decide

/-- V-TG-4. -/
theorem test_get_shutdown : shows (exec .getShutdownStatus (fresh (cfg8P .pot0) [.received [0x00, 0xA5]]))
    (one [0x4F, 0xFF] [0x00, 0xA5]) (.ok (.bool true)) := by decide

/-- V-HS-3, on pot 1: the mask is not shifted. -/
theorem test_get_hardware_shutdown :
    shows (exec .getHardwareShutdownStatus (fresh (cfg8P .pot1) [.received [0x00, 0xFD]]))
      (one [0x5F, 0xFF] [0x00, 0xFD]) (.ok (.bool false)) := by decide

/-! ### Selection (vectors V-SEL, V-FR) -/

theorem test_select : nextIs (exec .select (fresh (cfg8P .pot0) [])) (fun s =>
    s.events == [.csAssert] && s.blk.selCount == 1 && s.blk.csAsserted) := by decide

/-- V-SEL-4. -/
theorem test_deselect_nested : nextIs (exec .deselect (held 2 (fresh (cfg8P .pot0) []))) (fun s =>
    s.events == [] && s.blk.selCount == 1 && s.blk.csAsserted) := by decide

/-- V-SEL-5. -/
theorem test_deselect_last : nextIs (exec .deselect (held 1 (fresh (cfg8P .pot0) []))) (fun s =>
    s.events == [.csDeassert] && s.blk.selCount == 0 && !s.blk.csAsserted) := by decide

/-! ### The frame rows (R71, R75) -/

theorem test_row_write : shows (exec (.write 0x2 0x101) (fresh (cfg8P .pot0) [.received [0x00, 0x00]]))
    (one [0x23, 0x01] [0x00, 0x00]) (.ok .unit) := by decide
theorem test_row_incr : shows (exec (.incr 0xF) (fresh (cfg8P .pot0) [.received [0x00]]))
    (one [0xF6] [0x00]) (.ok .unit) := by decide
theorem test_row_decr : shows (exec (.decr 0x7) (fresh (cfg8P .pot0) [.received [0x00]]))
    (one [0x7A] [0x00]) (.ok .unit) := by decide
theorem test_row_read_unnamed : shows (exec (.read 0x2 0x1FF) (fresh (cfg8P .pot0) [.received [0x01, 0x02]]))
    (one [0x2F, 0xFF] [0x01, 0x02]) (.ok (.bytes [0x01, 0x02])) := by decide
theorem test_row_read_wiper : shows (exec (.read 0x1 0) (fresh (cfg8P .pot0) [.received [0x01, 0x02]]))
    (one [0x1E, 0x00] [0x01, 0x02]) (.ok (.nat 258)) := by decide
theorem test_row_writeWiper0 : shows (exec (.writeWiper0 256) (onDevice (cfg8P .pot0)))
    (one [0x03, 0x00] [0x03, 0x00]) (.ok .unit) := by decide
theorem test_row_writeWiper1 : shows (exec (.writeWiper1 100) (onDevice (cfg8P .pot0)))
    (one [0x12, 0x64] [0x12, 0x64]) (.ok .unit) := by decide
theorem test_row_incrWiper0 : nextIs (exec .incrWiper0 (onDevice (cfg8P .pot0))) (fun s =>
    s.link == .reference { device with wiper0 := 0x81 } []) := by decide
theorem test_row_incrWiper1 : nextIs (exec .incrWiper1 (onDevice (cfg8P .pot0))) (fun s =>
    s.link == .reference { device with wiper1 := 51 } []) := by decide
theorem test_row_decrWiper0 : nextIs (exec .decrWiper0 (onDevice (cfg8P .pot0))) (fun s =>
    s.link == .reference { device with wiper0 := 0x7F } []) := by decide
theorem test_row_decrWiper1 : nextIs (exec .decrWiper1 (onDevice (cfg8P .pot0))) (fun s =>
    s.link == .reference { device with wiper1 := 49 } []) := by decide
theorem test_row_readWiper0 : shows (exec .readWiper0 (onDevice (cfg8P .pot1)))
    (one [0x0F, 0xFF] [0x00, 0x80]) (.ok (.nat 128)) := by decide
theorem test_row_readWiper1 : shows (exec .readWiper1 (onDevice (cfg8P .pot0)))
    (one [0x1F, 0xFF] [0x00, 50]) (.ok (.nat 50)) := by decide
theorem test_row_readTcon : shows (exec .readTcon (onDevice (cfg8P .pot0)))
    (one [0x4F, 0xFF] [0x00, 0xFF]) (.ok (.nat 255)) := by decide
theorem test_row_writeTcon : shows (exec (.writeTcon 0x00) (onDevice (cfg8P .pot0)))
    (one [0x43, 0x00] [0x43, 0x00]) (.ok .unit) := by decide
theorem test_row_readStatus : shows (exec .readStatus (onDevice (cfg8P .pot0)))
    (one [0x5F, 0xFF] [0x00, 0x02]) (.ok (.nat 2)) := by decide

/-- The reference device does not admit a WRITE to STATUS (R74 (d)). -/
theorem test_device_refuses : refusedWith (exec (.write 0x5 0) (onDevice (cfg8P .pot0))) .deviceRefusesFrame := by
  decide

/-! ### The step -/

/-- `max_value` as the first request after reset. -/
theorem test_reset_runs_maxValue :
    nextIs (step (State.reset.setInbox [{ slot := .first, order := .call .maxValue }])) (fun s =>
      s.verdicts == [.ok (.nat 256)] && s.inbox == []) := by decide

theorem test_withFetchWord : nextIs (step ((onDevice (cfg8P .pot0)).withFetchWord 8 0b00000110)) (fun s =>
    s.events == one [0x06] [0x06] && s.inbox == []) := by decide

theorem test_withFetchWord_two_bytes :
    nextIs (step ((onDevice (cfg8P .pot0)).withFetchWord 16 0b01100100_00010010)) (fun s =>
      s.events == one [0x12, 0x64] [0x12, 0x64]) := by decide

theorem test_step_idle : step State.reset = .next State.reset := rfl

theorem test_second_instance : nextIs (step (pairWith .second .getWiperStatus)) (fun s =>
    s.events == one [0x4F, 0xFF] [0x00, 0xFF] && s.verdicts == [.ok (.bool true)]) := by decide

/-! ### Witnesses of the statements' hypotheses -/

theorem witness_ConstructionMeetsTheInvariants : (cfg8P .pot0).wf = true ∧ cfgWidth2.wf = true := by decide

/-- An instance alone on its chip, inside its own selection, with one pending call. -/
def waitingFor (i : Instr) : State :=
  { held 1 (fresh (cfg8P .pot0) []) with events := [.csAssert], inbox := [{ slot := .first, order := .call i }] }

theorem witness_StepKeepsSettled : ∃ t, (pairWith .second .get).Settled ∧ step (pairWith .second .get) = .next t :=
  ⟨_, by decide, rfl⟩

theorem witness_StepKeepsTheHistoryInOrder : ∃ t, (pairWith .first .get).Settled ∧
    (pairWith .first .get).HistoryInOrder ∧ step (pairWith .first .get) = .next t :=
  ⟨_, by decide, by decide, rfl⟩

theorem witness_StepKeepsTheLineInTurn : ∃ t, (waitingFor .get).Settled ∧ (waitingFor .get).DrivesTheLine ∧
    step (waitingFor .get) = .next t :=
  ⟨_, by decide, by decide, rfl⟩

theorem witness_SingleInstanceNeverStops : (waitingFor .get).DrivesTheLine ∧ (waitingFor .get).link = .real [] ∧
    (waitingFor .get).inbox = { slot := .first, order := .call .get } :: [] ∧
    decode [0x0F, 0xFF] = .ok (.readWiper0, []) := by decide

theorem witness_ConfigurationAndOtherInstanceUntouched : ∃ t, exec .get (pairWith .first .select) = .next t :=
  ⟨_, rfl⟩

theorem witness_CounterIsLeftAsFound : ∃ t, Instr.get ≠ .select ∧ Instr.get ≠ .deselect ∧
    exec .get (held 3 (fresh (cfg8P .pot0) [.failed])) = .next t ∧ t.blk.faulted = false :=
  ⟨_, by decide, by decide, rfl, by decide⟩

theorem witness_OneAssertion_idle : ∃ t, Instr.set 5 ≠ .select ∧ Instr.set 5 ≠ .deselect ∧
    (fresh (cfg8P .pot0) [.failed]).ready = true ∧
    exec (.set 5) (fresh (cfg8P .pot0) [.failed]) = .next t ∧ t.blk.faulted = false :=
  ⟨_, by decide, by decide, by decide, rfl, by decide⟩

theorem witness_OneAssertion_held : ∃ t, (held 1 (fresh (cfg8P .pot0) [.failed])).ready = true ∧
    exec (.set 5) (held 1 (fresh (cfg8P .pot0) [.failed])) = .next t ∧ t.blk.faulted = false :=
  ⟨_, by decide, rfl, by decide⟩

theorem witness_OneAssertion_noBus : ∃ t, Instr.maxValue.usesBus = false ∧
    (fresh (cfg8P .pot0) []).ready = true ∧ exec .maxValue (fresh (cfg8P .pot0) []) = .next t ∧
    t.blk.faulted = false :=
  ⟨_, by decide, by decide, rfl, by decide⟩

theorem witness_HostOperationsSendListedFramesOnly : ∃ t, hostOperation (.setWiperStatus true) = true ∧
    exec (.setWiperStatus true) (onDevice (cfg8P .pot1)) = .next t :=
  ⟨_, rfl, rfl⟩

theorem witness_FaultsComeOnlyFromTwoCauses_deselect : ∃ t, (fresh (cfg8P .pot0) []).blk.cfg.selWidth = none ∧
    (fresh (cfg8P .pot0) []).blk.faulted = false ∧ exec .deselect (fresh (cfg8P .pot0) []) = .next t ∧
    t.blk.faulted = true :=
  ⟨_, rfl, rfl, rfl, by decide⟩

theorem witness_FaultsComeOnlyFromTwoCauses_length : ∃ t, (fresh (cfg8P .pot0) [.received []]).blk.faulted = false ∧
    exec .increment (fresh (cfg8P .pot0) [.received []]) = .next t ∧ t.blk.faulted = true :=
  ⟨_, rfl, rfl, by decide⟩

theorem witness_EveryRequestEndsInOneOutcome : ∃ t, exec .select (fresh (cfg8P .pot0) []) = .next t := ⟨_, rfl⟩

theorem witness_FaultedInstanceStaysAsItIs : ∃ t, (faultedState (fresh (cfg8P .pot0) [])).blk.faulted = true ∧
    exec .get (faultedState (fresh (cfg8P .pot0) [])) = .next t :=
  ⟨_, rfl, rfl⟩

theorem witness_EarlierHistoryHasNoInfluence : ∃ t, exec .get (onDevice (cfg8P .pot0)) = .next t := ⟨_, rfl⟩

theorem witness_NotReady_bus : Instr.get.usesBus = true ∧ (faultedState (fresh (cfg8P .pot0) [])).ready = false := by
  decide

theorem witness_NotReady_busy : Instr.select.usesBus = true ∧
    ((fresh (cfg8P .pot0) []).setPhase (.busy .get 1)).ready = false := by decide

theorem witness_NegativeSetIsRefused : (-1 : Int) < 0 := by decide

theorem witness_EchoedWriteRoundTrips : (256#9).toNat ≤ 256 ∧ (0#9).toNat ≤ 256 ∧ (511#9 = 0x1FF#9) ∧
    257 ≤ (257#9).toNat ∧ (257#9).toNat ≤ 510 ∧ 257 ≤ (510#9).toNat ∧ (510#9).toNat ≤ 510 := by decide

theorem witness_MaxValueReturnsTheTable : (held 2 (fresh (cfg7R .pot1) [])).ready = true := by decide

theorem witness_IncrementAndDecrement : (fresh (cfg8P .pot1) [.received [0x16]]).CanRun ∧
    (fresh (cfg8P .pot1) [.received [0x16]]).link.exchange (incrBytes .pot1) 0 =
      (.received [0x16], .real [], 0) ∧
    (fresh (cfg8P .pot1) [.received [0x16]]).link.exchange (decrBytes .pot1) 0 =
      (.received [0x16], .real [], 0) := by decide

/-- The same on the reference device, from inside two selections. -/
theorem witness_Increment_on_device : (held 2 (onDevice (cfg8P .pot0))).CanRun ∧
    (held 2 (onDevice (cfg8P .pot0))).link.exchange (incrBytes .pot0) 0 =
      (.received [0x06], .reference { device with wiper0 := 0x81 } [], 0) := by decide

theorem witness_SetSendsTheClampedValue : (onDevice (cfg7R .pot1)).CanRun ∧
    (onDevice (cfg7R .pot1)).link.exchange (setBytes .pot1 (min 1000 (maxByTable (cfg7R .pot1)))) 0 =
      (.received [0x12, 0x7F], .reference { device with wiper1 := 127 } [], 0) := by decide

theorem witness_GetReturnsTheDecodedPosition : (fresh (cfg8P .pot0) [.received [0x01, 0x00]]).CanRun ∧
    (fresh (cfg8P .pot0) [.received [0x01, 0x00]]).link.exchange (getBytes .pot0) 0 =
      (.received [0x01, 0x00], .real [], 0) ∧ (fresh (cfg8P .pot0) [.failed]).CanRun ∧
    (fresh (cfg8P .pot0) [.failed]).link.exchange (getBytes .pot0) 0 = (.failed, .real [], 0) := by decide

theorem witness_FailedExchange : (fresh (cfg8P .pot0) [.failed]).CanRun ∧
    oneFrame (cfg8P .pot0) (.set 1000) = some [0x03, 0x00] ∧
    (fresh (cfg8P .pot0) [.failed]).link.exchange [0x03, 0x00] 0 = (.failed, .real [], 0) := by decide

/-- A failed exchange with the reference device: the draw is counted. -/
theorem witness_FailedExchange_on_device : ∃ l,
    (Link.reference device [true]).exchange (getBytes .pot0) 4 = (.failed, l, 5) := ⟨_, rfl⟩

theorem witness_WrongLengthAnswer : (fresh (cfg8P .pot0) [.received [0x00]]).CanRun ∧
    oneFrame (cfg8P .pot0) .get = some (getBytes .pot0) ∧
    (fresh (cfg8P .pot0) [.received [0x00]]).link.exchange (getBytes .pot0) 0 = (.received [0x00], .real [], 0) ∧
    ([0x00] : List Byte).length ≠ (getBytes .pot0).length := by decide

theorem witness_TconSetters : (fresh (cfg8P .pot1) (rmwAnswers 0xFF 0x42 0x7F)).CanRun ∧
    setterOf (.setShutdownStatus true) = some (3, false) ∧
    (fresh (cfg8P .pot1) (rmwAnswers 0xFF 0x42 0x7F)).link.exchange readTconBytes 0 =
      (.received [0x00, 0xFF], .real [.received [0x42, 0x7F]], 0) ∧
    (Link.real [.received [0x42, 0x7F]]).exchange (writeTconBytes (withBit 0xFF (flagBit .pot1 3) false)) 0 =
      (.received [0x42, 0x7F], .real [], 0) := by decide

theorem witness_FailedReadSendsNoWrite : (fresh (cfg8P .pot0) [.failed]).CanRun ∧
    setterOf (.setTerminalAStatus true) = some (2, true) ∧
    (fresh (cfg8P .pot0) [.failed]).link.exchange readTconBytes 0 = (.failed, .real [], 0) := by decide

/-- V-FL-2. -/
theorem witness_FailedWriteFollowsItsRead :
    (fresh (cfg8P .pot0) [.received [0x00, 0x0F], .failed]).CanRun ∧
    setterOf (.setWiperStatus false) = some (1, false) ∧
    (fresh (cfg8P .pot0) [.received [0x00, 0x0F], .failed]).link.exchange readTconBytes 0 =
      (.received [0x00, 0x0F], .real [.failed], 0) ∧
    (Link.real [.failed]).exchange (writeTconBytes (withBit 0x0F (flagBit .pot0 1) false)) 0 =
      (.failed, .real [], 0) := by decide

theorem witness_WrongLengthSetters : (fresh (cfg8P .pot0) [.received [0x00, 0x0F], .received [0x42]]).CanRun ∧
    setterOf (.setTerminalBStatus true) = some (0, true) ∧ ([0x42] : List Byte).length ≠ 2 ∧
    (Link.real [.received [0x42]]).exchange readTconBytes 0 = (.received [0x42], .real [], 0) ∧
    (Link.real [.received [0x00, 0x0F], .received [0x42]]).exchange readTconBytes 0 =
      (.received [0x00, 0x0F], .real [.received [0x42]], 0) ∧
    (Link.real [.received [0x42]]).exchange (writeTconBytes (withBit 0x0F (flagBit .pot0 0) true)) 0 =
      (.received [0x42], .real [], 0) := by decide

theorem witness_TconGetters : (onDevice (cfg8P .pot1)).CanRun ∧ getterOf .getShutdownStatus = some (3, true) ∧
    (onDevice (cfg8P .pot1)).link.exchange readTconBytes 0 =
      (.received [0x00, 0xFF], .reference device [], 0) ∧
    (fresh (cfg8P .pot1) [.failed]).link.exchange readTconBytes 0 = (.failed, .real [], 0) := by decide

theorem witness_HardwareShutdown : (onDevice (cfg8P .pot1)).CanRun ∧
    (onDevice (cfg8P .pot1)).link.exchange readStatusBytes 0 =
      (.received [0x00, 0x02], .reference device [], 0) ∧
    (fresh (cfg8P .pot1) [.failed]).link.exchange readStatusBytes 0 = (.failed, .real [], 0) := by decide

theorem witness_SelectCountsUp : (fresh cfgWidth2 []).ready = true ∧
    (fresh cfgWidth2 []).blk.cfg.fits ((fresh cfgWidth2 []).blk.selCount + 1) = true ∧
    (held 2 (fresh cfgWidth2 [])).blk.cfg.fits 3 = true := by decide

theorem witness_DeselectCountsDown : (held 1 (fresh (cfg8P .pot0) [])).ready = true ∧
    1 ≤ (held 1 (fresh (cfg8P .pot0) [])).blk.selCount ∧ 1 ≤ (held 2 (fresh (cfg8P .pot0) [])).blk.selCount := by
  decide

theorem witness_UnmatchedDeselectFaults : (fresh (cfg8P .pot0) []).ready = true ∧
    (fresh (cfg8P .pot0) []).blk.selCount = 0 := by decide

theorem witness_SelectPastTheWidthFaults : (held 3 (fresh cfgWidth2 [])).ready = true ∧
    (held 3 (fresh cfgWidth2 [])).blk.cfg.fits 4 = false ∧ 1 ≤ (held 3 (fresh cfgWidth2 [])).blk.selCount := by decide

theorem witness_InnerSelectPastTheWidthFaults : (held 2 (fresh cfgWidth2 [])).ready = true ∧
    (held 2 (fresh cfgWidth2 [])).blk.lineAgrees ∧ (held 2 (fresh cfgWidth2 [])).blk.cfg.fits 3 = true ∧
    (held 2 (fresh cfgWidth2 [])).blk.cfg.fits 4 = false ∧ hostOperation .get = true ∧ Instr.get.usesBus = true ∧
    Instr.get ≠ .select ∧ Instr.get ≠ .deselect := by decide

/-- A host operation and a frame row on a full counter. -/
theorem witness_OuterSelectPastTheWidthFaults : (held 3 (fresh cfgWidth2 [])).ready = true ∧
    (held 3 (fresh cfgWidth2 [])).blk.cfg.fits 4 = false ∧ 1 ≤ (held 3 (fresh cfgWidth2 [])).blk.selCount ∧
    Instr.get.exchanges = true ∧ Instr.readTcon.exchanges = true ∧ (Instr.incr 0x5).exchanges = true := by decide

/-- R90 before R74: a frame the reference device would refuse does not come to it on a full counter. -/
theorem test_full_counter_before_device : shows (exec (.incr 0x5) (held 3 (onDevice cfgWidth2))) []
    (.fault .selectOverflow) := by decide

/-- A frame row where the counter holds one more selection and not two: answered, failed, answered wrongly. -/
theorem witness_FrameRowsRunWithRoomForOneSelection :
    (held 2 (fresh cfgWidth2 [.received [0x00]])).CanSelect ∧ (held 2 (fresh cfgWidth2 [])).blk.cfg.fits 4 = false ∧
    Instr.incrWiper1.wf = true ∧ encode .incrWiper1 = some [0x16] ∧
    (held 2 (fresh cfgWidth2 [.received [0x00]])).link.admits [0x16] = true ∧
    (Link.real [.received [0x00]]).exchange [0x16] 0 = (.received [0x00], .real [], 0) ∧
    (Link.real [.failed]).exchange [0x16] 0 = (.failed, .real [], 0) ∧
    (Link.real [.received []]).exchange [0x16] 0 = (.received [], .real [], 0) := by decide

theorem witness_EmittedFrames : (onDevice (cfg8P .pot0)).CanRun ∧
    emittedBytes (.writeWiper0 256) = some [0x03, 0x00] ∧
    (onDevice (cfg8P .pot0)).link.exchange [0x03, 0x00] 0 =
      (.received [0x03, 0x00], .reference { device with wiper0 := 256 } [], 0) := by decide

/-- The READ clauses: a wiper, TCON and STATUS. -/
theorem witness_EmittedFrames_read : (fresh (cfg8P .pot0) [.received [0x01, 0x00]]).CanRun ∧
    emittedBytes .readWiper1 = some [0x1F, 0xFF] ∧ emittedBytes .readTcon = some [0x4F, 0xFF] ∧
    emittedBytes .readStatus = some [0x5F, 0xFF] ∧
    (fresh (cfg8P .pot0) [.received [0x01, 0x00]]).link.exchange [0x1F, 0xFF] 0 =
      (.received [0x01, 0x00], .real [], 0) := by decide

theorem witness_GenericFrames_write : (fresh (cfg8P .pot0) [.received [0x00, 0x00]]).CanRun ∧
    (fresh (cfg8P .pot0) [.received [0x00, 0x00]]).link.admits [0x23, 0x01] = true ∧
    ([0x23, 0x01] : List Byte) =
      [BitVec.ofNat 8 (16 * (0x2#4).toNat + 2 + (0x101#9).toNat / 256), BitVec.ofNat 8 ((0x101#9).toNat % 256)] ∧
    (fresh (cfg8P .pot0) [.received [0x00, 0x00]]).link.exchange [0x23, 0x01] 0 =
      (.received [0x00, 0x00], .real [], 0) := by decide

theorem witness_GenericFrames_incr : (fresh (cfg8P .pot0) [.received [0x00]]).CanRun ∧
    (fresh (cfg8P .pot0) [.received [0x00]]).link.admits [0x26] = true ∧
    ([0x26] : List Byte) = [BitVec.ofNat 8 (16 * (0x2#4).toNat + 6)] ∧
    ([0x2A] : List Byte) = [BitVec.ofNat 8 (16 * (0x2#4).toNat + 10)] ∧
    (fresh (cfg8P .pot0) [.received [0x00]]).link.exchange [0x26] 0 = (.received [0x00], .real [], 0) ∧
    (fresh (cfg8P .pot0) [.received [0x00]]).link.exchange [0x2A] 0 = (.received [0x00], .real [], 0) := by decide

/-- The READ clause: an address that names no register, with bit 8 of the data set, and TCON with data 0. -/
theorem witness_GenericFrames_read : (fresh (cfg8P .pot0) [.received [0x01, 0x80]]).CanRun ∧
    (fresh (cfg8P .pot0) [.received [0x01, 0x80]]).link.admits [0x2F, 0x01] = true ∧
    ([0x2F, 0x01] : List Byte) =
      [BitVec.ofNat 8 (16 * (0x2#4).toNat + 14 + (0x101#9).toNat / 256), BitVec.ofNat 8 ((0x101#9).toNat % 256)] ∧
    ([0x4E, 0x00] : List Byte) =
      [BitVec.ofNat 8 (16 * (0x4#4).toNat + 14 + (0x000#9).toNat / 256), BitVec.ofNat 8 ((0x000#9).toNat % 256)] ∧
    (fresh (cfg8P .pot0) [.received [0x01, 0x80]]).link.exchange [0x2F, 0x01] 0 =
      (.received [0x01, 0x80], .real [], 0) ∧
    (fresh (cfg8P .pot0) [.received [0x01, 0x80]]).link.exchange [0x4E, 0x00] 0 =
      (.received [0x01, 0x80], .real [], 0) := by decide

/-- A generic frame the reference device admits. -/
theorem witness_GenericFrames_on_device : (onDevice (cfg8P .pot0)).link.admits [0x02, 0x05] = true ∧
    ([0x02, 0x05] : List Byte) =
      [BitVec.ofNat 8 (16 * (0x0#4).toNat + 2 + (5#9).toNat / 256), BitVec.ofNat 8 ((5#9).toNat % 256)] := by decide

theorem witness_FrameRowsFail : (fresh (cfg8P .pot0) [.failed]).CanRun ∧ Instr.readTcon.wf = true ∧
    encode .readTcon = some [0x4F, 0xFF] ∧ (fresh (cfg8P .pot0) [.failed]).link.admits [0x4F, 0xFF] = true ∧
    (fresh (cfg8P .pot0) [.failed]).link.exchange [0x4F, 0xFF] 0 = (.failed, .real [], 0) := by decide

theorem witness_FrameRowsFault : (fresh (cfg8P .pot0) [.received [0x00]]).CanRun ∧
    (fresh (cfg8P .pot0) [.received [0x00]]).link.exchange [0x4F, 0xFF] 0 = (.received [0x00], .real [], 0) ∧
    ([0x00] : List Byte).length ≠ ([0x4F, 0xFF] : List Byte).length := by decide

theorem witness_DeviceRefuses : (onDevice (cfg8P .pot0)).ready = true ∧ (onDevice (cfg8P .pot0)).blk.cfg.fits 1 = true ∧
    (onDevice (cfg8P .pot0)).link = .reference device [] ∧
    ((0x4#4 : U4) ≠ 0x0#4 ∧ (0x4#4 : U4) ≠ 0x1#4) ∧
    ((0x5#4 : U4) ≠ 0x0#4 ∧ (0x5#4 : U4) ≠ 0x1#4 ∧ (0x5#4 : U4) ≠ 0x4#4) ∧
    ((0x2#4 : U4) ≠ 0x4#4 ∧ (0x2#4 : U4) ≠ 0x5#4) ∧ (0x1FE#9 : U9) ≠ 0x1FF#9 := by decide

theorem witness_HostOperationsComplete : (onDevice (cfg8P .pot0)).CanRun ∧
    (onDevice (cfg8P .pot0)).link = .reference device [] ∧ hostOperation .get = true ∧
    hostOperation (.set 0) = true ∧ hostOperation .deselect = true ∧ (held 1 (onDevice (cfg8P .pot0))).CanRun ∧
    1 ≤ (held 1 (onDevice (cfg8P .pot0))).blk.selCount := by decide

theorem witness_SetGetLaw : (onDevice (cfg8P .pot1)).CanRun ∧
    (onDevice (cfg8P .pot1)).link = .reference device [] ∧
    (device.dmax (onDevice (cfg8P .pot1)).blk.cfg.potIndex).toNat = maxByTable (cfg8P .pot1) := by decide

theorem witness_ReadModifyWrite : (onDevice (cfg8P .pot1)).CanRun ∧
    (onDevice (cfg8P .pot1)).link = .reference device [] ∧
    (Instr.setShutdownStatus true = .setShutdownStatus true ∧ Instr.getShutdownStatus = .getShutdownStatus) := by
  decide

theorem witness_DecodeOfEncode : (Instr.write 0x0 0x101).wf = true ∧
    encode (.write 0x0 0x101) = some [0x03, 0x01] ∧ (Instr.writeTcon 0xFF).wf = true ∧
    encode (.writeTcon 0xFF) = some [0x43, 0xFF] := by decide

theorem witness_EncodeOfDecode : decode [0x0E, 0x00, 0x06] = .ok (.read 0x0 0, [0x06]) := by decide

theorem witness_EmittedRowsEncode : emittedBytes (.writeWiper1 256) = some [0x13, 0x00] := by decide

theorem witness_DecoderRefuses : (0x04#8)[1] = false ∧
    ((0x0B#8)[1] = true ∧ (0x0B#8)[0] = true ∧ (0x0B#8).extractLsb' 2 2 = 2#2) ∧
    ((0x07#8)[1] = true ∧ (0x07#8)[0] = true ∧ (0x07#8).extractLsb' 2 2 = 1#2) ∧
    ((0x02#8)[1] = true ∧ (0x02#8).extractLsb' 2 2 = 0#2) ∧
    ((0x0F#8)[1] = true ∧ (0x0F#8).extractLsb' 2 2 = 3#2) := by decide

/-- The state of the two step witnesses below. -/
def waiting (bytes : List Byte) : State :=
  (onDevice (cfg8P .pot0)).setInbox [{ slot := .first, order := .frame bytes }]

theorem witness_StepRunsTheNextRequest : (waiting [0x06]).lineLost .incrWiper0 = false ∧
    (waiting [0x06]).inbox = { slot := .first, order := .frame [0x06] } :: [] ∧
    decode [0x06] = .ok (.incrWiper0, []) ∧ decodeTableWord 8 0x06 = some .incrWiper0 ∧
    (pairWith .first .get).inbox = { slot := .first, order := .call .get } :: [] ∧
    (pairWith .first .get).lineLost .get = false ∧ (onDevice (cfg8P .pot0)).inbox = [] := by decide

theorem witness_StepRefusesWhatIsNoFrame :
    (waiting [0x04]).inbox = { slot := .first, order := .frame [0x04] } :: [] ∧
    decode [0x04] = .error .reservedBitClear := by decide

/-- The pair with its instances exchanged, as the second instance sees it. -/
def swapped : State :=
  { (pairWith .second .get) with
    blk := Block.construct (cfg8P .pot1), second := some (Block.construct (cfg8P .pot0)), inbox := [] }

theorem witness_SecondInstance : ∃ t, (pairWith .second .get).second = some (Block.construct (cfg8P .pot1)) ∧
    (pairWith .second .get).inbox = { slot := .second, order := .call .get } :: [] ∧
    swapped.lineLost .get = false ∧ exec .get swapped = .next t :=
  ⟨_, rfl, rfl, by decide, rfl⟩

/-- Two instances of which the first holds a selection whose line the second one's `Deselect` has released (R146). -/
def releasedUnderFirst (sl : Slot) (i : Instr) : State :=
  { held 1 (pairWith sl i) with events := [.csAssert, .csAssert, .csDeassert] }

/-- The same with the second instance holding the selection. -/
def releasedUnderSecond (i : Instr) : State :=
  { pairWith .second i with
    second := some { Block.construct (cfg8P .pot1) with selCount := 1, csAsserted := true }
    events := [.csAssert, .csAssert, .csDeassert] }

theorem witness_ReleasedLine_first : (releasedUnderFirst .first .get).second = some (Block.construct (cfg8P .pot1)) ∧
    Instr.get.exchanges = true ∧ (releasedUnderFirst .first .get).csLine = false ∧
    (releasedUnderFirst .first .get).ready = true ∧ (releasedUnderFirst .first .get).blk.csAsserted = true ∧
    (releasedUnderFirst .first .get).blk.cfg.fits (1 + selectionsNeeded .get) = true := by decide

theorem witness_ReleasedLine_second : ∃ b, (releasedUnderSecond .get).second = some b ∧
    (releasedUnderSecond .get).csLine = false ∧ b.phase = .idle ∧ b.faulted = false ∧ b.csAsserted = true ∧
    b.cfg.fits (b.selCount + selectionsNeeded .get) = true :=
  ⟨_, rfl, by decide, by decide, by decide, by decide, by decide⟩

/-- The instances of `releasedUnderFirst` and `releasedUnderSecond` with a counter of two bits, the holder at 2 or 3: room
for a frame row's selection and not for a host operation's two, or for none. -/
def noRoomFirst (n : Nat) (i : Instr) : State :=
  let s := releasedUnderFirst .first i
  { s with blk := { s.blk with cfg := cfgWidth2, selCount := n } }

def noRoomSecond (n : Nat) (i : Instr) : State :=
  { releasedUnderSecond i with second := some { Block.construct cfgWidth2 with selCount := n, csAsserted := true } }

theorem witness_NoRoomFaultsOnAnyLine_first : (noRoomFirst 2 .get).second = some (Block.construct (cfg8P .pot1)) ∧
    Instr.get.exchanges = true ∧ (noRoomFirst 2 .get).ready = true ∧ (noRoomFirst 2 .get).blk.lineAgrees ∧
    (noRoomFirst 2 .get).csLine = false ∧ cfgWidth2.fits (2 + selectionsNeeded .get) = false ∧
    cfgWidth2.fits (3 + selectionsNeeded .readTcon) = false ∧ (noRoomFirst 3 .readTcon).ready = true := by decide

theorem witness_NoRoomFaultsOnAnyLine_second : ∃ b, (noRoomSecond 2 .get).second = some b ∧
    (noRoomSecond 2 .get).csLine = false ∧ b.phase = .idle ∧ b.faulted = false ∧ b.lineAgrees ∧ 1 ≤ b.selCount ∧
    b.cfg.fits (b.selCount + selectionsNeeded .get) = false :=
  ⟨_, rfl, by decide, by decide, by decide, by decide, by decide, by decide⟩

/-- R90: the outer and the inner `Select` that overflow, and a frame row's, on a released line; room for one selection is
enough for a frame row, which so comes to its exchange. -/
theorem test_released_line_no_room :
    shows (step (noRoomSecond 3 .get)) [.csAssert, .csAssert, .csDeassert] (.fault .selectOverflow) ∧
    shows (step (noRoomFirst 2 .get)) [.csAssert, .csAssert, .csDeassert] (.fault .selectOverflow) ∧
    shows (step (noRoomFirst 3 .readTcon)) [.csAssert, .csAssert, .csDeassert] (.fault .selectOverflow) ∧
    refusedWith (step (noRoomFirst 2 .readTcon)) .lineReleased := by decide

/-- While the first instance holds a selection, the second one runs by its own counter (R37, R90, R91). -/
theorem test_second_runs_inside_first : nextIs (step (held 1 (pairWith .second .get))) (fun s =>
    s.events == one [0x1F, 0xFF] [0x00, 0xFF] && s.blk.selCount == 1 && s.blk.csAsserted && !s.csLine) := by decide

theorem test_released_line_refused : refusedWith (step (releasedUnderFirst .first .get)) .lineReleased := by decide

/-- `deselect` exchanges nothing and is served. -/
theorem test_released_line_deselect : nextIs (step (releasedUnderFirst .first .deselect)) (fun s =>
    s.blk.selCount == 0 && !s.blk.csAsserted) := by decide

end Sys2Proof.Tests
end

/-! PROOFS of the family spec/00_scope.md: first what a step does with the next request, then what no instruction
touches, then that an exchange never finds the line released. -/

section
namespace Sys2Proof

/-! ### Frames out of byte streams -/

/-- Bytes that decode with nothing after them are one frame. -/
theorem decodeFrame_of_decode {bytes : List Byte} {i : Instr} (h : decode bytes = .ok (i, [])) :
    decodeFrame bytes = .ok i := by
  simp [decodeFrame, h]

/-- Cutting a stream to the length its control byte tells (R72) leaves the stream's first frame. -/
theorem decodeFrame_take_frameLength {b : Byte} {rest rest' : List Byte} {i : Instr}
    (h : decode (b :: rest) = .ok (i, rest')) : decodeFrame ((b :: rest).take (frameLength b)) = .ok i := by
  apply decodeFrame_of_decode
  cases hr : ctrlReserved b with
  | false => simp [decode, hr] at h
  | true =>
    cases hc : ctrlCommand b with
    | increment | decrement =>
      cases hd : ctrlD8 b <;> simp_all [decode, frameLength, noDataByte]
    | write | read =>
      cases rest <;> simp_all [decode, frameLength, takeDataByte]

/-- A table word that decodes is presented as a frame of the same instruction. -/
theorem decodeFrame_tableWordFrame {nbits w : Nat} {i : Instr} (h : decodeTableWord nbits w = some i) :
    decodeFrame (tableWordFrame nbits w) = .ok i := by
  cases hd : decode (tableWordBytes nbits w) with
  | error e => simp [decodeTableWord, hd] at h
  | ok p =>
    have hi : p.1 = i := by simpa [decodeTableWord, hd] using h
    exact decodeFrame_take_frameLength (rest' := p.2) (hi ▸ hd)

end Sys2Proof

namespace Sys2Proof.Machine

/-! ### What a step does -/

/-- With no request the block stays idle. -/
theorem step_empty {s : State} (h : s.inbox = []) : step s = .next s := by
  simp [step, takeRequest, h]

/-- The next request is fetched and run at its instance, the others still pending. -/
theorem step_request {s : State} {r : Request} {rest : List Request} {i : Instr} (h : s.inbox = r :: rest)
    (hf : r.order.fetch = .ok i) : step s = runAt r.slot i (s.setInbox rest) := by
  simp [step, takeRequest, h, hf]

/-- The first instance executes `i` where the line it needs is not lost. -/
theorem runHere_eq_exec {s : State} {i : Instr} (h : s.lineLost i = false) : runHere i s = exec i s := by
  simp [runHere, h]

/-- The line is lost, or not, whatever requests are pending. -/
@[simp] theorem State.setInbox_lineLost (s : State) (rest : List Request) (i : Instr) :
    (s.setInbox rest).lineLost i = s.lineLost i := rfl

/-- A request of the first instance, its line not lost. -/
theorem step_first {s : State} {o : Order} {rest : List Request} {i : Instr}
    (h : s.inbox = { slot := .first, order := o } :: rest) (hf : o.fetch = .ok i) (hl : s.lineLost i = false) :
    step s = exec i (s.setInbox rest) :=
  (step_request h hf).trans (runHere_eq_exec hl)

/-- A run that answers a next state had its line and executed the instruction. -/
theorem runHere_next {i : Instr} {s t : State} (h : runHere i s = .next t) :
    s.lineLost i = false ∧ exec i s = .next t := by
  cases hl : s.lineLost i with
  | true => simp [runHere, hl] at h
  | false => exact ⟨rfl, (runHere_eq_exec hl).symm.trans h⟩

/-- A next state of a request is the first instance's, or the second's with the two exchanged and put back. -/
theorem runAt_next_cases {slot : Slot} {i : Instr} {s t : State} (h : runAt slot i s = .next t) :
    runHere i s = .next t ∨ ∃ u, runHere i s.swap = .next u ∧ t = u.swap := by
  cases slot with
  | first => exact .inl h
  | second =>
    cases h2 : s.second with
    | none => simp [runAt, h2] at h
    | some b =>
      cases hu : runHere i s.swap <;> simp [runAt, h2, hu, swapBack] at h
      exact .inr ⟨_, rfl, h.symm⟩

/-- A step that answers a next state stays, with nothing pending, or has run the next request. -/
theorem step_next_cases {s t : State} (h : step s = .next t) :
    t = s ∨ ∃ slot i rest, runAt slot i (s.setInbox rest) = .next t := by
  cases hin : s.inbox with
  | nil => exact .inl (Host.Outcome.next.inj ((step_empty hin).symm.trans h)).symm
  | cons r rest =>
    cases hf : r.order.fetch with
    | error e => simp [step, takeRequest, hin, hf] at h
    | ok i => exact .inr ⟨r.slot, i, rest, (step_request hin hf).symm.trans h⟩

/-- What `exec` keeps, every step keeps: `P` is kept by an instruction from a state of `Q`, and both are blind to the
inbox and to which instance is the first. -/
theorem step_keeps {P Q : State → Prop} {s t : State}
    (inboxQ : ∀ s rest, Q s → Q (s.setInbox rest)) (inboxP : ∀ s rest, P s → P (s.setInbox rest))
    (swapQ : ∀ s, Q s → Q s.swap) (swapP : ∀ s, P s → P s.swap)
    (run : ∀ i s t, Q s → P s → s.lineLost i = false → exec i s = .next t → P t)
    (hQ : Q s) (hP : P s) (h : step s = .next t) : P t := by
  rcases step_next_cases h with rfl | ⟨slot, i, rest, hrun⟩
  · exact hP
  · have hQ' := inboxQ s rest hQ
    have hP' := inboxP s rest hP
    rcases runAt_next_cases hrun with hfirst | ⟨u, hsecond, rfl⟩
    · obtain ⟨hl, he⟩ := runHere_next hfirst
      exact run _ _ _ hQ' hP' hl he
    · obtain ⟨hl, he⟩ := runHere_next hsecond
      exact swapP _ (run _ _ _ (swapQ _ hQ') (swapP _ hP') hl he)

/-! ### What the two instances share -/

@[simp] theorem State.swap_events (s : State) : s.swap.events = s.events := by
  cases h : s.second <;> simp [State.swap, h]

/-- Exchanging two settled instances leaves both settled. -/
theorem State.Settled.swap {s : State} (h : s.Settled) : s.swap.Settled := by
  cases hb : s.second with
  | none => rwa [show s.swap = s by simp [State.swap, hb]]
  | some b =>
    obtain ⟨h1, h2⟩ := h
    simp only [State.swap, hb]
    exact ⟨h2 b hb, by simpa using h1⟩

/-- A state whose events go on in an order the line allows. -/
theorem State.HistoryInOrder.extend {s t : State} {evs : List Event} (h : s.HistoryInOrder)
    (he : t.events = s.events ++ evs) (ha : historyAllowed s.csLine evs = true) : t.HistoryInOrder := by
  have ha' : historyAllowed (lineLevel false s.events) evs = true := ha
  simp [State.HistoryInOrder, he, historyAllowed_append, ha', h]

/-! ### What no instruction touches -/

/-- `t` is `s` after one request: the configuration, the other instance and the pending requests as before, one outcome
more. -/
structure ServedOnce (s t : State) : Prop where
  cfg : t.blk.cfg = s.blk.cfg
  second : t.second = s.second
  inbox : t.inbox = s.inbox
  outcome : ∃ v, t.verdicts = s.verdicts ++ [v]

/-- A request that only records its outcome. -/
theorem ServedOnce.of_conclude (s : State) (v : Verdict) : ServedOnce s (s.conclude v) :=
  ⟨rfl, rfl, rfl, v, rfl⟩

/-- An accepted `select`, with room or without. -/
theorem servedOnce_select {s : State} (hr : s.ready = true) :
    ServedOnce s (serve .select (fun u => (selectStep u).andThen fun _ w => .ret .unit w) s) := by
  rcases serve_select_cases hr with ⟨-, h⟩ | ⟨-, h⟩ <;> rw [h] <;> constructor <;> simp

/-- An accepted `deselect`, matched or not. -/
theorem servedOnce_deselect {s : State} (hr : s.ready = true) :
    ServedOnce s (serve .deselect (fun u => (deselectStep u).andThen fun _ w => .ret .unit w) s) := by
  rcases serve_deselect_cases hr with ⟨-, h⟩ | ⟨-, h⟩ <;> rw [h] <;> constructor <;> simp

theorem Completed.servedOnce {P : List Byte → Prop} {n : Nat} {s t : State} (h : Completed P n s t) :
    ServedOnce s t :=
  ⟨h.cfg, h.second, h.inbox, h.verdict.elim (fun ⟨_, hv⟩ => ⟨_, hv⟩) fun hv => ⟨_, hv⟩⟩

theorem Broken.servedOnce {P : List Byte → Prop} {n : Nat} {s t : State} (h : Broken P n s t) : ServedOnce s t :=
  ⟨h.cfg, h.second, h.inbox, h.verdict.elim fun _ hv => ⟨_, hv.2⟩⟩

/-- Every instruction that answers a next state has served one request. -/
theorem exec_servedOnce {i : Instr} {s t : State} (h : exec i s = .next t) : ServedOnce s t := by
  rcases exec_next_cases h with
    ⟨-, v, rfl, -⟩ | ⟨-, -, rfl⟩ | ⟨-, hr, rfl⟩ | ⟨-, hr, rfl⟩ | ⟨-, -, -, -, hc | hb⟩
  · exact .of_conclude s v
  · exact .of_conclude s _
  · exact servedOnce_select hr
  · exact servedOnce_deselect hr
  · exact hc.servedOnce
  · exact hb.servedOnce

/-! ### The chip-select events of `select` and `deselect` -/

/-- `select` emits at most a `CsAssert`, also where it overflows (R90). -/
theorem serve_select_events {s : State} (hr : s.ready = true) :
    (serve .select (fun u => (selectStep u).andThen fun _ w => .ret .unit w) s).events =
      s.events ++ s.openEvents := by
  rcases serve_select_cases hr with ⟨-, h⟩ | ⟨-, h⟩ <;> rw [h] <;> simp

/-- `deselect` emits at most a `CsDeassert` (R91). -/
theorem serve_deselect_events {s : State} (hr : s.ready = true) :
    (serve .deselect (fun u => (deselectStep u).andThen fun _ w => .ret .unit w) s).events =
      s.events ++ (if s.blk.selCount = 1 then [.csDeassert] else []) := by
  rcases serve_deselect_cases hr with ⟨h0, h⟩ | ⟨h0, h⟩ <;> rw [h]
  · have h1 : s.blk.selCount - 1 = 0 ↔ s.blk.selCount = 1 := by omega
    simp [h1]
  · simp [h0]

/-- The events before and after an operation's exchanges are allowed on any line. -/
theorem historyAllowed_openEvents (s : State) (level : Bool) : historyAllowed level s.openEvents = true := by
  unfold State.openEvents
  split <;> rfl

theorem historyAllowed_closeEvents (s : State) (level : Bool) : historyAllowed level s.closeEvents = true := by
  unfold State.closeEvents
  split <;> rfl

/-- After the first `Select` of an operation the line is asserted, or was before. -/
theorem lineLevel_openEvents {s : State} {level : Bool} (h : s.blk.selCount = 0 ∨ level = true) :
    lineLevel level s.openEvents = true := by
  unfold State.openEvents
  split
  · rfl
  · exact h.resolve_left ‹_›

/-- Exchanges between an operation's chip-select events are allowed where the operation asserts the line or finds it
asserted. -/
theorem historyAllowed_operation {P : List Byte → Prop} {s : State} {level : Bool} {evs : List Event}
    (h : s.blk.selCount = 0 ∨ level = true) (he : ∀ e ∈ evs, e.IsExchange P) :
    historyAllowed level (s.openEvents ++ evs) = true := by
  simp [historyAllowed_append, historyAllowed_openEvents, lineLevel_openEvents h, historyAllowed_exchanges he]

theorem Completed.historyInOrder {P : List Byte → Prop} {n : Nat} {s t : State} (h : Completed P n s t)
    (hline : s.blk.selCount = 0 ∨ s.csLine = true) (hh : s.HistoryInOrder) : t.HistoryInOrder := by
  obtain ⟨evs, -, he, hev⟩ := h.events
  refine hh.extend (evs := s.openEvents ++ evs ++ s.closeEvents) (by simpa using hev) ?_
  rw [historyAllowed_append, historyAllowed_operation hline he, historyAllowed_closeEvents]
  rfl

theorem Broken.historyInOrder {P : List Byte → Prop} {n : Nat} {s t : State} (h : Broken P n s t)
    (hline : s.blk.selCount = 0 ∨ s.csLine = true) (hh : s.HistoryInOrder) : t.HistoryInOrder := by
  obtain ⟨evs, -, he, hev⟩ := h.events
  exact hh.extend (by simpa using hev) (historyAllowed_operation hline he)

end Sys2Proof.Machine

namespace Sys2Proof.Claims
open Sys2Proof.Machine

/-! ### A counter with no room: the overflow comes before any exchange -/

/-- A host operation that exchanges is a bus operation whose body begins with a transfer (R89, R93). -/
theorem exec_hostExchange {i : Instr} (hx : i.exchanges = true) (he : encode i = none) (s : State) :
    ∃ (frame : State → List Byte) (use : List Byte → State → Exit Result),
      exec i s = .next (serve i (operation fun t => (transfer (frame t) t).andThen use) s) := by
  cases i <;> simp only [encode, reduceCtorEq] at he
  case set v =>
    have hv : ¬ v < 0 := by
      simp only [Instr.exchanges, Instr.usesBus, Bool.and_eq_true, decide_eq_true_eq] at hx
      omega
    exact ⟨_, _, if_neg hv⟩
  case buildFrame | decodeWiper | decodeRegByte | maxValue | select | deselect =>
    simp [Instr.exchanges, Instr.usesBus] at hx
  all_goals exact ⟨_, _, rfl⟩

/-- Inside a selection, an overflow at the very first `Select` of a request is a `State.stuck` with nothing complete. -/
theorem enterFault_eq_stuck {s : State} (i : Instr) (hline : s.blk.lineAgrees) (hs : s.blk.selCount ≠ 0) (f : Fault) :
    (s.setPhase (.busy i 0)).enterFault f = s.stuck i 0 0 s.link s.draws [] f := by
  have hcs : s.blk.csAsserted = true := by simpa [Block.lineAgrees, Nat.pos_iff_ne_zero, hs] using hline
  refine State.eq_of_fields (Block.eq_of_fields ?_ ?_ ?_ ?_ ?_) ?_ ?_ ?_ ?_ ?_ ?_ <;>
    simp [State.stuck, State.openEvents_held hs, hcs]

/-- Inside a selection whose counter has no room for the selections before the first exchange, an instruction faults
`SelectOverflow` with nothing exchanged (R90, R95). -/
theorem exec_noRoom {i : Instr} {s : State} (hx : i.exchanges = true) (hr : s.ready = true)
    (hline : s.blk.lineAgrees) (hs : s.blk.selCount ≠ 0)
    (hf : s.blk.cfg.fits (s.blk.selCount + selectsBeforeExchange i) = false) :
    ∃ k d, exec i s = .next (s.stuck i k d s.link s.draws [] .selectOverflow) := by
  cases he : encode i with
  | some tx =>
    have h1 : s.blk.cfg.fits (s.blk.selCount + 1) = false := by simpa [selectsBeforeExchange, he] using hf
    obtain ⟨tx, use, hexec⟩ := exec_transfer (i := i) (by simp [he])
    exact ⟨0, 0, by rw [hexec, serveFrame_full hr hs h1, enterFault_eq_stuck i hline hs]⟩
  | none =>
    have h2 : s.blk.cfg.fits (s.blk.selCount + 2) = false := by simpa [selectsBeforeExchange, he] using hf
    obtain ⟨frame, use, hexec⟩ := exec_hostExchange hx he s
    cases h1 : s.blk.cfg.fits (s.blk.selCount + 1) with
    | false => exact ⟨0, 0, by rw [hexec, serve_operation_full hr hs h1, enterFault_eq_stuck i hline hs]⟩
    | true => exact ⟨1, 1, by rw [hexec, serve_overflow hr hline h1 h2]⟩

/-! ### The history stays in order -/

/-- Why an instruction that exchanges and is let run has its line: it asserts it itself, finds it asserted, or overflows
its counter before it exchanges. -/
theorem lineLost_false_cases {i : Instr} {s : State} (hx : i.exchanges = true) (hr : s.ready = true)
    (hline : s.blk.lineAgrees) (hl : s.lineLost i = false) :
    (s.blk.selCount = 0 ∨ s.csLine = true) ∨
    (s.blk.selCount ≠ 0 ∧ s.blk.cfg.fits (s.blk.selCount + selectsBeforeExchange i) = false) := by
  by_cases hs : s.blk.selCount = 0
  · exact .inl (.inl hs)
  · have hcs : s.blk.csAsserted = true := by simpa [Block.lineAgrees, Nat.pos_iff_ne_zero, hs] using hline
    cases hf : s.blk.cfg.fits (s.blk.selCount + selectsBeforeExchange i) with
    | false => exact .inr ⟨hs, rfl⟩
    | true => exact .inl (.inr (by simpa [State.lineLost, State.reaches, hx, hr, hcs, hf] using hl))

/-- An instruction let run by the line keeps the history in order. -/
theorem exec_keeps_historyInOrder {i : Instr} {s t : State} (hline : s.blk.lineAgrees) (hh : s.HistoryInOrder)
    (hl : s.lineLost i = false) (h : exec i s = .next t) : t.HistoryInOrder := by
  rcases exec_next_cases h with
    ⟨-, v, rfl, -⟩ | ⟨-, -, rfl⟩ | ⟨-, hr, rfl⟩ | ⟨-, hr, rfl⟩ | ⟨hbus, hsel, hdes, hr, hend⟩
  · exact hh
  · exact hh
  · exact hh.extend (serve_select_events hr) (historyAllowed_openEvents s _)
  · exact hh.extend (serve_deselect_events hr) (by split <;> rfl)
  · have hx : i.exchanges = true := by simp [Instr.exchanges, hbus, hsel, hdes]
    rcases lineLost_false_cases hx hr hline hl with hon | ⟨hs, hf⟩
    · exact hend.elim (·.historyInOrder hon hh) (·.historyInOrder hon hh)
    · obtain ⟨k, d, hstuck⟩ := exec_noRoom hx hr hline hs hf
      obtain rfl := Host.Outcome.next.inj (hstuck.symm.trans h)
      exact hh.extend (evs := []) (by simp [State.stuck, State.openEvents_held hs]) rfl

/-- Settles O4: an exchange on a line the other instance has released is stopped by the fetch, or its `Select` overflows
first, so every exchange of a next state stands inside an asserted line. -/
theorem stepKeepsTheHistoryInOrder : Obligations.StepKeepsTheHistoryInOrder := by
  intro s t hs hh h
  refine step_keeps (Q := State.Settled) (P := State.HistoryInOrder) (fun _ _ hs => hs) (fun _ _ hh => hh)
    (fun _ hs => hs.swap) (fun s hh => ?_) (fun i s t hs hh hl he => ?_) hs hh h
  · simpa [State.HistoryInOrder] using hh
  · obtain ⟨⟨-, -, hline, -⟩, -⟩ := hs
    exact exec_keeps_historyInOrder hline hh hl he

/-! ### An instance alone on its chip -/

/-- An instance whose line stands where it drives it never loses it. -/
theorem lineLost_of_csLine_eq {s : State} (h : s.csLine = s.blk.csAsserted) (i : Instr) : s.lineLost i = false := by
  cases hb : s.blk.csAsserted <;> simp [State.lineLost, h, hb]

/-- An instruction that is no frame never stops. -/
theorem exec_next_of_encode_none {i : Instr} (he : encode i = none) (s : State) : ∃ t, exec i s = .next t := by
  cases i <;> simp only [encode, reduceCtorEq] at he
  case set v =>
    by_cases hv : v < 0
    · exact ⟨_, if_pos hv⟩
    · exact ⟨_, if_neg hv⟩
  all_goals exact ⟨_, rfl⟩

/-- With a device that admits every frame, no instruction stops (R131). -/
theorem exec_next_of_admits {s : State} (ha : ∀ tx, s.link.admits tx = true) (i : Instr) :
    ∃ t, exec i s = .next t := by
  cases he : encode i with
  | none => exact exec_next_of_encode_none he s
  | some tx =>
    obtain ⟨tx, use, hexec⟩ := exec_transfer (i := i) (by simp [he])
    exact ⟨_, (hexec s).trans (serveFrame_admitted (ha tx))⟩

/-- Settles O6: the line of a lone instance is never lost, and the real device admits every frame. -/
theorem singleInstanceNeverStops : Obligations.SingleInstanceNeverStops := by
  rintro s o i rest answers ⟨-, hcs, -⟩ hlink hin ho
  have hf : o.fetch = .ok i := by
    rcases ho with rfl | ⟨bytes, rfl, hd⟩
    · rfl
    · exact decodeFrame_of_decode hd
  rw [step_first hin hf (lineLost_of_csLine_eq hcs i)]
  exact exec_next_of_admits (fun tx => by simp [hlink, Link.admits]) i

/-! ### What an instruction leaves and what it records -/

/-- Settles O7: a request served once keeps all three. -/
theorem configurationAndOtherInstanceUntouched : Obligations.ConfigurationAndOtherInstanceUntouched :=
  fun _ _ _ h => ⟨(exec_servedOnce h).cfg, (exec_servedOnce h).second, (exec_servedOnce h).inbox⟩

/-- Settles O12: a request served once adds one outcome. -/
theorem everyRequestEndsInOneOutcome : Obligations.EveryRequestEndsInOneOutcome :=
  fun _ _ _ h => (exec_servedOnce h).outcome

/-! ### The next request -/

/-- Settles O52: a frame is fetched by its decoding, a call by its name, a table word as the frame cut from it. -/
theorem stepRunsTheNextRequest : Obligations.StepRunsTheNextRequest := by
  intro s rest i hl
  refine ⟨fun bytes hin hd => ?_, fun hin => ?_, fun nbits w hw => ?_, step_empty⟩
  · exact step_first hin (decodeFrame_of_decode hd) hl
  · exact step_first hin rfl hl
  · exact step_first (s := s.withFetchWord nbits w) rfl (decodeFrame_tableWordFrame hw) hl

end Sys2Proof.Claims
end

/-! PROOFS of the family spec/10_state.md: what a settled instance is after each kind of end, how the line follows the
counter of an instance alone on its chip, and that no instruction reads the history. -/

section
namespace Sys2Proof.Machine

/-! ### A settled instance -/

/-- An admitted width holds one selection: "at least 2 bits" (R11). -/
theorem Cfg.fits_one_of_wf {c : Cfg} (h : c.wf = true) : c.fits 1 = true := by
  cases hw : c.selWidth with
  | none => simp [Cfg.fits, hw]
  | some w =>
    have h2 : 2 ≤ w := by simpa [Cfg.wf, hw] using h
    have hpow : 2 ^ 1 < 2 ^ w := Nat.pow_lt_pow_right (by omega) (by omega)
    simp only [Cfg.fits, hw, decide_eq_true_eq]
    omega

/-- Inside a selection, a line that agrees with the counter is asserted (R23). -/
theorem Block.lineAgrees.csAsserted {b : Block} (h : b.lineAgrees) (hs : b.selCount ≠ 0) : b.csAsserted = true := by
  simpa [Block.lineAgrees, Nat.pos_iff_ne_zero, hs] using h

/-- The line after the 0→1 transition of `Select`, if there is one, is asserted (R90). -/
theorem Block.lineAgrees.selected {b : Block} (h : b.lineAgrees) :
    (if b.selCount = 0 then true else b.csAsserted) = true := by
  split
  · rfl
  · exact h.csAsserted ‹_›

/-- An asserted line agrees with a counter that holds a selection (R23). -/
theorem Block.lineAgrees_of_held {b : Block} (hcs : b.csAsserted = true) (hs : 0 < b.selCount) : b.lineAgrees := by
  rw [Block.lineAgrees, hcs, decide_eq_true hs]

/-- A fresh instance with an admitted width is settled. -/
theorem Block.construct_settled {c : Cfg} (h : c.wf = true) : (Block.construct c).Settled :=
  ⟨h, Cfg.fits_mono (Cfg.fits_one_of_wf h) (Nat.zero_le 1), rfl, fun _ => rfl⟩

/-- A bus operation that ended normally or by `TransportFailure` gives the counter and the line back (R39). -/
theorem Completed.settled {P : List Byte → Prop} {n : Nat} {s t : State} (h : Completed P n s t)
    (hs : s.blk.Settled) : t.blk.Settled := by
  obtain ⟨hwf, hfits, hline, -⟩ := hs
  refine ⟨by rwa [h.cfg], by rwa [h.cfg, h.selCount], ?_, fun _ => h.phase⟩
  rw [Block.lineAgrees, h.csAsserted, h.selCount]
  split
  · simp [*]
  · exact hline

/-- A bus operation that faulted stands inside a selection with the line asserted (R94). -/
theorem Broken.settled {P : List Byte → Prop} {n : Nat} {s t : State} (h : Broken P n s t)
    (hs : s.blk.Settled) : t.blk.Settled := by
  obtain ⟨hwf, hfits, hline, -⟩ := hs
  have hpos : 0 < t.blk.selCount := h.held (Cfg.fits_one_of_wf hwf)
  have hcs : t.blk.csAsserted = true := h.csAsserted.trans hline.selected
  exact ⟨by rwa [h.cfg], h.fits hfits, Block.lineAgrees_of_held hcs hpos, by simp [h.faulted]⟩

/-- After `select` the line is asserted, also where the counter overflows (R90). -/
theorem serve_select_csAsserted {s : State} (hr : s.ready = true) (hline : s.blk.lineAgrees) :
    (serve .select (fun u => (selectStep u).andThen fun _ w => .ret .unit w) s).blk.csAsserted = true := by
  rcases serve_select_cases hr with ⟨-, h⟩ | ⟨-, h⟩ <;> rw [h]
  · exact (State.selected_csAsserted _).trans hline.selected
  · exact (State.assertLine_csAsserted _).trans hline.selected

/-- `deselect` releases the line from `sel_count = 1` only (R91). -/
theorem serve_deselect_csAsserted {s : State} (hr : s.ready = true) :
    (serve .deselect (fun u => (deselectStep u).andThen fun _ w => .ret .unit w) s).blk.csAsserted =
      (if s.blk.selCount = 1 then false else s.blk.csAsserted) := by
  rcases serve_deselect_cases hr with ⟨h0, h⟩ | ⟨h0, h⟩ <;> rw [h]
  · have h1 : s.blk.selCount - 1 = 0 ↔ s.blk.selCount = 1 := by omega
    simp [h1]
  · simp [h0]

/-- An accepted `select` leaves the instance settled: an overflow finds a selection held, an admitted width having room
for the first. -/
theorem serve_select_settled {s : State} (hr : s.ready = true) (hs : s.blk.Settled) :
    (serve .select (fun u => (selectStep u).andThen fun _ w => .ret .unit w) s).blk.Settled := by
  obtain ⟨hwf, hfits, hline, -⟩ := hs
  have hcs := serve_select_csAsserted hr hline
  rcases serve_select_cases hr with ⟨hf, h⟩ | ⟨hf, h⟩ <;> rw [h] at hcs ⊢
  · exact ⟨by simpa using hwf, by simpa using hf, Block.lineAgrees_of_held hcs (by simp), by simp⟩
  · have hne : s.blk.selCount ≠ 0 := by
      intro h0
      simp [h0, Cfg.fits_one_of_wf hwf] at hf
    exact ⟨by simpa using hwf, by simpa using hfits,
      Block.lineAgrees_of_held hcs (by simpa using Nat.pos_of_ne_zero hne), by simp⟩

/-- An accepted `deselect` leaves the instance settled, matched or not. -/
theorem serve_deselect_settled {s : State} (hr : s.ready = true) (hs : s.blk.Settled) :
    (serve .deselect (fun u => (deselectStep u).andThen fun _ w => .ret .unit w) s).blk.Settled := by
  obtain ⟨hwf, hfits, hline, -⟩ := hs
  have hcs := serve_deselect_csAsserted hr
  rcases serve_deselect_cases hr with ⟨h0, h⟩ | ⟨h0, h⟩ <;> rw [h] at hcs ⊢
  · refine ⟨by simpa using hwf, by simpa using Cfg.fits_mono hfits (Nat.sub_le _ 1), ?_, by simp⟩
    rw [Block.lineAgrees, hcs, hline.csAsserted h0]
    by_cases h1 : s.blk.selCount = 1
    · simp [h1]
    · have : 0 < s.blk.selCount - 1 := by omega
      simp [h1, this]
  · exact ⟨by simpa using hwf, by simpa using hfits, hline, by simp⟩

/-- Every instruction leaves a settled instance settled, and the other one as it was. -/
theorem exec_keeps_settled {i : Instr} {s t : State} (hs : s.Settled) (h : exec i s = .next t) : t.Settled := by
  obtain ⟨hblk, hsecond⟩ := hs
  refine ⟨?_, by rwa [(exec_servedOnce h).second]⟩
  rcases exec_next_cases h with
    ⟨-, v, rfl, -⟩ | ⟨-, -, rfl⟩ | ⟨-, hr, rfl⟩ | ⟨-, hr, rfl⟩ | ⟨-, -, -, -, hc | hb⟩
  · exact hblk
  · exact hblk
  · exact serve_select_settled hr hblk
  · exact serve_deselect_settled hr hblk
  · exact hc.settled hblk
  · exact hb.settled hblk

/-! ### The line of an instance alone on its chip -/

/-- A lone instance's next state: what it emits is in turn and leaves the line where the instance then drives it. -/
theorem State.DrivesTheLine.extend {s t : State} {evs : List Event} (h : s.DrivesTheLine) (h2 : t.second = s.second)
    (he : t.events = s.events ++ evs) (hl : lineLevel s.blk.csAsserted evs = t.blk.csAsserted)
    (ha : alternates s.blk.csAsserted evs = true) : t.DrivesTheLine := by
  obtain ⟨hnone, hcs, halt⟩ := h
  rw [← hcs] at hl ha
  refine ⟨h2.trans hnone, ?_, ?_⟩
  · rw [State.csLine, he, lineLevel_append]
    exact hl
  · rw [he, alternates_append, halt]
    exact ha

/-- The first `Select`'s event finds the line released (R90). -/
theorem alternates_openEvents {s : State} (h : s.blk.lineAgrees) :
    alternates s.blk.csAsserted s.openEvents = true := by
  by_cases h0 : s.blk.selCount = 0
  · have hcs : s.blk.csAsserted = false := by simpa [Block.lineAgrees, h0] using h
    simp [State.openEvents, h0, hcs, alternates]
  · simp [State.openEvents_held h0, alternates]

/-- After it the line is asserted. -/
theorem lineLevel_openEvents_of_lineAgrees {s : State} (h : s.blk.lineAgrees) :
    lineLevel s.blk.csAsserted s.openEvents = true :=
  lineLevel_openEvents (or_iff_not_imp_left.2 h.csAsserted)

/-- An operation's first event and its exchanges, from a line that agrees with the counter, are in turn. -/
theorem alternates_operation {P : List Byte → Prop} {s : State} {evs : List Event} (h : s.blk.lineAgrees)
    (he : ∀ e ∈ evs, e.IsExchange P) : alternates s.blk.csAsserted (s.openEvents ++ evs) = true := by
  rw [alternates_append, alternates_openEvents h, alternates_exchanges he]
  rfl

/-- They leave the line asserted. -/
theorem lineLevel_operation {P : List Byte → Prop} {s : State} {evs : List Event} (h : s.blk.lineAgrees)
    (he : ∀ e ∈ evs, e.IsExchange P) : lineLevel s.blk.csAsserted (s.openEvents ++ evs) = true := by
  rw [lineLevel_append, lineLevel_openEvents_of_lineAgrees h, lineLevel_exchanges he]

/-- A bus operation that ended normally or by `TransportFailure` releases the line it asserted (R95). -/
theorem Completed.drivesTheLine {P : List Byte → Prop} {n : Nat} {s t : State} (h : Completed P n s t)
    (hline : s.blk.lineAgrees) (hd : s.DrivesTheLine) : t.DrivesTheLine := by
  obtain ⟨evs, -, he, hev⟩ := h.events
  refine hd.extend (evs := s.openEvents ++ evs ++ s.closeEvents) h.second (by simpa using hev) ?_ ?_
  · rw [lineLevel_append, lineLevel_operation hline he, h.csAsserted]
    by_cases h0 : s.blk.selCount = 0
    · simp [State.closeEvents, h0, lineLevel, Event.drives]
    · simp [State.closeEvents, h0, lineLevel, hline.csAsserted h0]
  · rw [alternates_append, alternates_operation hline he, lineLevel_operation hline he]
    by_cases h0 : s.blk.selCount = 0 <;> simp [State.closeEvents, h0, alternates]

/-- A bus operation that faulted leaves the line asserted (R125). -/
theorem Broken.drivesTheLine {P : List Byte → Prop} {n : Nat} {s t : State} (h : Broken P n s t)
    (hline : s.blk.lineAgrees) (hd : s.DrivesTheLine) : t.DrivesTheLine := by
  obtain ⟨evs, -, he, hev⟩ := h.events
  refine hd.extend (evs := s.openEvents ++ evs) h.second (by simpa using hev) ?_ (alternates_operation hline he)
  rw [lineLevel_operation hline he, h.csAsserted, hline.selected]

/-- An accepted `select` asserts the line unless it is held (R90). -/
theorem serve_select_drivesTheLine {s : State} (hr : s.ready = true) (hline : s.blk.lineAgrees)
    (hd : s.DrivesTheLine) :
    (serve .select (fun u => (selectStep u).andThen fun _ w => .ret .unit w) s).DrivesTheLine := by
  refine hd.extend (servedOnce_select hr).second (serve_select_events hr) ?_ (alternates_openEvents hline)
  rw [serve_select_csAsserted hr hline]
  exact lineLevel_openEvents_of_lineAgrees hline

/-- An accepted `deselect` releases the line it holds alone (R91). -/
theorem serve_deselect_drivesTheLine {s : State} (hr : s.ready = true) (hline : s.blk.lineAgrees)
    (hd : s.DrivesTheLine) :
    (serve .deselect (fun u => (deselectStep u).andThen fun _ w => .ret .unit w) s).DrivesTheLine := by
  refine hd.extend (servedOnce_deselect hr).second (serve_deselect_events hr) ?_ ?_
  · rw [serve_deselect_csAsserted hr]
    by_cases h1 : s.blk.selCount = 1 <;> simp [h1, lineLevel, Event.drives]
  · by_cases h1 : s.blk.selCount = 1
    · simp [h1, alternates, hline.csAsserted (by omega)]
    · simp [h1, alternates]

/-- Every instruction of a lone settled instance keeps the line in turn. -/
theorem exec_keeps_drivesTheLine {i : Instr} {s t : State} (hline : s.blk.lineAgrees) (hd : s.DrivesTheLine)
    (h : exec i s = .next t) : t.DrivesTheLine := by
  rcases exec_next_cases h with
    ⟨-, v, rfl, -⟩ | ⟨-, -, rfl⟩ | ⟨-, hr, rfl⟩ | ⟨-, hr, rfl⟩ | ⟨-, -, -, -, hc | hb⟩
  · exact hd
  · exact hd
  · exact serve_select_drivesTheLine hr hline hd
  · exact serve_deselect_drivesTheLine hr hline hd
  · exact hc.drivesTheLine hline hd
  · exact hb.drivesTheLine hline hd

/-- An instance alone on its chip has none to change places with. -/
theorem State.swap_of_alone {s : State} (h : s.second = none) : s.swap = s := by
  simp [State.swap, h]

/-- Two instances change places. -/
theorem State.swap_of_pair {s : State} {b : Block} (h : s.second = some b) :
    s.swap = { s with blk := b, second := some s.blk } := by
  simp [State.swap, h]

/-! ### Faulted instances -/

/-- A faulted instance accepts no request (R24). -/
theorem State.ready_of_faulted {s : State} (h : s.blk.faulted = true) : s.ready = false := by
  simp [State.ready, h]

/-- Whatever a faulted instance is asked for, only an outcome is recorded. -/
theorem exec_of_faulted {i : Instr} {s t : State} (hf : s.blk.faulted = true) (h : exec i s = .next t) :
    ∃ v, t = s.conclude v := by
  have hr : s.ready ≠ true := by simp [State.ready_of_faulted hf]
  rcases exec_next_cases h with
    ⟨-, v, ht, -⟩ | ⟨-, -, ht⟩ | ⟨-, hr', -⟩ | ⟨-, hr', -⟩ | ⟨-, -, -, hr', -⟩
  · exact ⟨v, ht⟩
  · exact ⟨_, ht⟩
  all_goals exact absurd hr' hr

end Sys2Proof.Machine

namespace Sys2Proof.Claims
open Sys2Proof.Machine

/-! ### The history is not read -/

/-- An exit whose state has an earlier history put before its own. -/
def exitWithPast {α : Type} (x : Exit α) (evs : List Event) (vs : List Verdict) : Exit α :=
  match x with
  | .ret v s => .ret v (withPast s evs vs)
  | .raised s => .raised (withPast s evs vs)
  | .fault f s => .fault f (withPast s evs vs)

/-- A piece of pseudocode that does from any state the same with an earlier history as without it. -/
def PastBlind {α : Type} (body : State → Exit α) : Prop :=
  ∀ s evs vs, body (withPast s evs vs) = exitWithPast (body s) evs vs

theorem pastBlind_ret {α : Type} (v : α) : PastBlind (Exit.ret v) := fun _ _ _ => rfl

/-- A value read off the state, of which the history is no part. -/
theorem pastBlind_read {α : Type} {g : State → α} (hg : ∀ s evs vs, g (withPast s evs vs) = g s) :
    PastBlind fun s => .ret (g s) s := by
  intro s evs vs
  simp only [hg]
  rfl

theorem PastBlind.andThen {α β : Type} {body : State → Exit α} {k : α → State → Exit β} (hb : PastBlind body)
    (hk : ∀ v, PastBlind (k v)) : PastBlind fun s => (body s).andThen k := by
  intro s evs vs
  simp only [hb s evs vs]
  cases body s with
  | ret v t => exact hk v t evs vs
  | raised t => rfl
  | fault f t => rfl

theorem emit_withPast (s : State) (e : Event) (evs : List Event) (vs : List Verdict) :
    (withPast s evs vs).emit e = withPast (s.emit e) evs vs := by
  simp [State.emit, withPast]

theorem conclude_withPast (s : State) (v : Verdict) (evs : List Event) (vs : List Verdict) :
    (withPast s evs vs).conclude v = withPast (s.conclude v) evs vs := by
  simp [State.conclude, withPast]

theorem assertLine_withPast (s : State) (evs : List Event) (vs : List Verdict) :
    (withPast s evs vs).assertLine = withPast s.assertLine evs vs := by
  by_cases h0 : s.blk.selCount = 0
  · have h0' : (withPast s evs vs).blk.selCount = 0 := h0
    simp only [State.assertLine, h0, h0', if_true, emit_withPast]
    rfl
  · rw [State.assertLine, State.assertLine, if_neg h0]
    exact if_neg h0

theorem releaseLine_withPast (s : State) (evs : List Event) (vs : List Verdict) :
    (withPast s evs vs).releaseLine = withPast s.releaseLine evs vs := by
  by_cases h0 : s.blk.selCount = 0
  · have h0' : (withPast s evs vs).blk.selCount = 0 := h0
    simp only [State.releaseLine, h0, h0', if_true, emit_withPast]
    rfl
  · rw [State.releaseLine, State.releaseLine, if_neg h0]
    exact if_neg h0

theorem selected_withPast (s : State) (evs : List Event) (vs : List Verdict) :
    (withPast s evs vs).selected = withPast s.selected evs vs := by
  rw [State.selected, assertLine_withPast]
  rfl

theorem deselected_withPast (s : State) (evs : List Event) (vs : List Verdict) :
    (withPast s evs vs).deselected = withPast s.deselected evs vs :=
  congrArg State.tick (releaseLine_withPast (s.setSelCount (s.blk.selCount - 1)) evs vs)

theorem pastBlind_selectStep : PastBlind selectStep := by
  intro s evs vs
  cases hf : s.blk.cfg.fits (s.blk.selCount + 1) with
  | true => rw [selectStep_ret hf, selectStep_ret (s := withPast s evs vs) hf, selected_withPast]; rfl
  | false =>
    rw [selectStep_overflow hf, selectStep_overflow (s := withPast s evs vs) hf, assertLine_withPast]
    rfl

theorem pastBlind_deselectStep : PastBlind deselectStep := by
  intro s evs vs
  by_cases h0 : s.blk.selCount = 0
  · rw [deselectStep_underflow h0, deselectStep_underflow (s := withPast s evs vs) h0]
    rfl
  · rw [deselectStep_ret h0, deselectStep_ret (s := withPast s evs vs) h0, deselected_withPast]
    rfl

theorem PastBlind.guarded {α : Type} {body : State → Exit α} (hb : PastBlind body) :
    PastBlind (guarded body) := by
  intro s evs vs
  simp only [Machine.guarded, hb s evs vs]
  cases body s with
  | ret v t => exact pastBlind_deselectStep.andThen (fun _ => pastBlind_ret v) t evs vs
  | raised t => exact pastBlind_deselectStep.andThen (k := fun _ u => .raised u) (fun _ _ _ _ => rfl) t evs vs
  | fault f t => rfl

theorem PastBlind.operation {α : Type} {body : State → Exit α} (hb : PastBlind body) :
    PastBlind (operation body) :=
  pastBlind_selectStep.andThen fun _ => hb.guarded

/-- The link answers by what is sent and by its own state, not by what was sent before. -/
theorem pastBlind_exchangeChecked (tx : List Byte) : PastBlind (exchangeChecked tx) := by
  intro s evs vs
  by_cases h0 : s.blk.selCount = 0
  · rw [exchangeChecked, exchangeChecked, if_pos h0]
    exact if_pos h0
  · rcases hx : s.link.exchange tx s.draws with ⟨a, l, n⟩
    have hemit : ∀ e, (((withPast s evs vs).setLink l n).emit e).tick =
        withPast ((s.setLink l n).emit e).tick evs vs :=
      fun e => congrArg State.tick (emit_withPast (s.setLink l n) e evs vs)
    cases a with
    | failed =>
      rw [exchangeChecked_failed h0 hx, exchangeChecked_failed (s := withPast s evs vs) h0 hx, hemit]
      rfl
    | received rx =>
      by_cases hlen : rx.length = tx.length
      · rw [exchangeChecked_received h0 hx hlen, exchangeChecked_received (s := withPast s evs vs) h0 hx hlen, hemit]
        rfl
      · rw [exchangeChecked_mismatch h0 hx hlen, exchangeChecked_mismatch (s := withPast s evs vs) h0 hx hlen]
        rfl

theorem pastBlind_transfer (tx : List Byte) : PastBlind (transfer tx) :=
  (pastBlind_exchangeChecked tx).operation

/-- A transfer of a frame that the state chooses, its response used by `use`. -/
theorem pastBlind_transfer_andThen {α : Type} {frame : State → List Byte} {use : List Byte → State → Exit α}
    (hf : ∀ s evs vs, frame (withPast s evs vs) = frame s) (hu : ∀ rx, PastBlind (use rx)) :
    PastBlind fun s => (transfer (frame s) s).andThen use := by
  intro s evs vs
  simp only [hf]
  exact (pastBlind_transfer (frame s)).andThen hu s evs vs

theorem pastBlind_withPair {α : Type} {rx : List Byte} {k : Byte → Byte → State → Exit α}
    (hk : ∀ r0 r1, PastBlind (k r0 r1)) : PastBlind fun s => withPair rx (fun r0 r1 => k r0 r1 s) s := by
  intro s evs vs
  unfold withPair
  split
  · exact hk _ _ s evs vs
  · rfl

theorem pastBlind_ignoreResponse (rx : List Byte) : PastBlind (ignoreResponse rx) := fun _ _ _ => rfl

theorem pastBlind_wiperResponse (rx : List Byte) : PastBlind (wiperResponse rx) :=
  pastBlind_withPair fun _ _ => pastBlind_ret _

theorem pastBlind_regResponse (rx : List Byte) : PastBlind (regResponse rx) :=
  pastBlind_withPair fun _ _ => pastBlind_ret _

theorem pastBlind_readResponse (a : U4) (rx : List Byte) : PastBlind (readResponse a rx) := by
  unfold readResponse
  split
  · exact pastBlind_wiperResponse rx
  · split
    · exact pastBlind_regResponse rx
    · exact pastBlind_ret _

theorem pastBlind_wiperCommand (command : Command) (data : Option U9) : PastBlind (wiperCommand command data) :=
  (pastBlind_transfer_andThen (fun _ _ _ => rfl) pastBlind_ignoreResponse).operation

theorem pastBlind_tconUpdateBit (m : Byte) (setting : Bool) : PastBlind (tconUpdateBit m setting) :=
  (pastBlind_transfer_andThen (fun _ _ _ => rfl) fun _ =>
    pastBlind_withPair fun _ _ => pastBlind_transfer_andThen (fun _ _ _ => rfl) pastBlind_ignoreResponse).operation

/-- A flag read whose result does not look at the history. -/
theorem pastBlind_readFlag (addr : U4) {f : State → Byte → Bool}
    (hf : ∀ s evs vs, f (withPast s evs vs) = f s) : PastBlind (readFlag addr f) :=
  have hread : ∀ r0 r1, PastBlind fun u => .ret (Result.bool (f u (decodeRegByte r0 r1))) u :=
    fun _ _ => pastBlind_read fun _ _ _ => by rw [hf]
  (pastBlind_transfer_andThen (fun _ _ _ => rfl) fun _ => pastBlind_withPair hread).operation

theorem finish_exitWithPast (x : Exit Result) (evs : List Event) (vs : List Verdict) :
    (exitWithPast x evs vs).finish = withPast x.finish evs vs := by
  cases x with
  | ret v s => exact conclude_withPast (s.setPhase .idle) _ evs vs
  | raised s => exact conclude_withPast (s.setPhase .idle) _ evs vs
  | fault f s => exact conclude_withPast { s with blk := { s.blk with faulted := true } } _ evs vs

/-- A served request whose body does not read the history. -/
theorem serve_withPast {i : Instr} {body : State → Exit Result} (hb : PastBlind body) (s : State)
    (evs : List Event) (vs : List Verdict) : serve i body (withPast s evs vs) = withPast (serve i body s) evs vs := by
  cases hr : s.ready with
  | false => rw [serve_notReady hr, serve_notReady (s := withPast s evs vs) hr, conclude_withPast]
  | true =>
    rw [serve_ready hr, serve_ready (s := withPast s evs vs) hr, ← finish_exitWithPast, ← hb]
    rfl

/-- An instruction that answers with an earlier history the state it answers without it, that history put before. -/
def RunsPastBlind (run : State → Host.Outcome State Fault Refusal) : Prop :=
  ∀ s t evs vs, run s = .next t → run (withPast s evs vs) = .next (withPast t evs vs)

theorem runsPastBlind_codecResult (r : Result) : RunsPastBlind (codecResult r) := by
  intro s t evs vs h
  obtain rfl := Host.Outcome.next.inj h
  exact congrArg Host.Outcome.next (conclude_withPast s _ evs vs)

theorem runsPastBlind_serve {i : Instr} {body : State → Exit Result} (hb : PastBlind body) :
    RunsPastBlind fun s => .next (serve i body s) := by
  intro s t evs vs h
  obtain rfl := Host.Outcome.next.inj h
  exact congrArg Host.Outcome.next (serve_withPast hb s evs vs)

/-- Whether the device refuses a frame does not hang on the history. -/
theorem runsPastBlind_serveFrame {i : Instr} {tx : List Byte} {use : List Byte → State → Exit Result}
    (hu : ∀ rx, PastBlind (use rx)) : RunsPastBlind (serveFrame i tx use) := by
  intro s t evs vs h
  cases ha : s.reaches 1 && !s.link.admits tx with
  | true => simp [serveFrame, ha] at h
  | false =>
    have ha' : ((withPast s evs vs).reaches 1 && !(withPast s evs vs).link.admits tx) = false := ha
    simp only [serveFrame, ha, ha', Bool.false_eq_true, if_false] at h ⊢
    exact runsPastBlind_serve ((pastBlind_transfer tx).andThen hu) s t evs vs h

/-- No instruction reads the history. -/
theorem runsPastBlind_exec (i : Instr) : RunsPastBlind (exec i) := by
  cases i with
  | write | incr | decr | writeWiper0 | writeWiper1 | incrWiper0 | incrWiper1 | decrWiper0 | decrWiper1 | writeTcon =>
    exact runsPastBlind_serveFrame pastBlind_ignoreResponse
  | read a => exact runsPastBlind_serveFrame (pastBlind_readResponse a)
  | readWiper0 | readWiper1 => exact runsPastBlind_serveFrame pastBlind_wiperResponse
  | readTcon | readStatus => exact runsPastBlind_serveFrame pastBlind_regResponse
  | buildFrame | decodeWiper | decodeRegByte => exact runsPastBlind_codecResult _
  | maxValue => exact runsPastBlind_serve (pastBlind_read fun _ _ _ => rfl)
  | increment | decrement => exact runsPastBlind_serve (pastBlind_wiperCommand _ _)
  | set v =>
    intro s t evs vs h
    by_cases hv : v < 0
    · simp only [exec, execSet, if_pos hv] at h ⊢
      obtain rfl := Host.Outcome.next.inj h
      rw [conclude_withPast]
    · simp only [exec, execSet, if_neg hv] at h ⊢
      exact runsPastBlind_serve (pastBlind_wiperCommand _ _) s t evs vs h
  | get =>
    exact runsPastBlind_serve (pastBlind_transfer_andThen (fun _ _ _ => rfl) pastBlind_wiperResponse).operation
  | setTerminalAStatus | setTerminalBStatus | setWiperStatus | setShutdownStatus =>
    exact runsPastBlind_serve (pastBlind_tconUpdateBit _ _)
  | getTerminalAStatus | getTerminalBStatus | getWiperStatus | getShutdownStatus | getHardwareShutdownStatus =>
    exact runsPastBlind_serve (pastBlind_readFlag _ fun _ _ _ => rfl)
  | select => exact runsPastBlind_serve (pastBlind_selectStep.andThen fun _ => pastBlind_ret _)
  | deselect => exact runsPastBlind_serve (pastBlind_deselectStep.andThen fun _ => pastBlind_ret _)

/-! ### The statements -/

/-- Settles O3: every kind of end leaves the instance settled, and no instruction touches the other one. -/
theorem stepKeepsSettled : Obligations.StepKeepsSettled := fun _ _ hs h =>
  step_keeps (Q := fun _ => True) (P := State.Settled) (fun _ _ _ => trivial) (fun _ _ hs => hs) (fun _ _ => trivial)
    (fun _ hs => hs.swap) (fun _ _ _ _ hs _ he => exec_keeps_settled hs he) trivial hs h

/-- Settles O5: from a line that agrees with the counter, every kind of end emits its chip-select events in turn and
leaves the line where the instance then drives it. -/
theorem stepKeepsTheLineInTurn : Obligations.StepKeepsTheLineInTurn := by
  intro s t hs hd h
  refine step_keeps (Q := State.Settled) (P := State.DrivesTheLine) (fun _ _ hs => hs) (fun _ _ hd => hd)
    (fun _ hs => hs.swap) (fun s hd => ?_) (fun i s t hs hd _ he => ?_) hs hd h
  · rwa [State.swap_of_alone hd.1]
  · obtain ⟨⟨-, -, hline, -⟩, -⟩ := hs
    exact exec_keeps_drivesTheLine hline hd he

/-- Settles O8: a request that only records its outcome keeps the counter, as does a bus operation that completed. -/
theorem counterIsLeftAsFound : Obligations.CounterIsLeftAsFound := by
  intro i s t hsel hdes h hf
  rcases exec_next_cases h with
    ⟨-, v, rfl, -⟩ | ⟨-, -, rfl⟩ | ⟨rfl, -, -⟩ | ⟨rfl, -, -⟩ | ⟨-, -, -, -, hc | hb⟩
  · rfl
  · rfl
  · exact absurd rfl hsel
  · exact absurd rfl hdes
  · exact hc.selCount
  · simp [hb.faulted] at hf

/-- Settles O13: a faulted instance only has an outcome recorded. -/
theorem faultedInstanceStaysAsItIs : Obligations.FaultedInstanceStaysAsItIs := by
  intro i s t hf h
  obtain ⟨v, rfl⟩ := exec_of_faulted hf h
  exact ⟨rfl, rfl, rfl, rfl, rfl⟩

/-- Settles O14: each shared operation does the same with an earlier history as without it, and so does every meaning
made of them. -/
theorem earlierHistoryHasNoInfluence : Obligations.EarlierHistoryHasNoInfluence :=
  fun i s t evs vs h => runsPastBlind_exec i s t evs vs h

/-- Settles O54: the step exchanges the two instances, executes with the first as neighbour, and puts them back. -/
theorem secondInstanceRunsByTheSameRules : Obligations.SecondInstanceRunsByTheSameRules := by
  intro s t b i rest h2 hin hl he
  have hswap : (s.setInbox rest).swap = { s with blk := b, second := some s.blk, inbox := rest } :=
    State.swap_of_pair h2
  have hlost : (s.setInbox rest).swap.lineLost i = false := by
    rw [hswap]
    exact hl
  have hrun : runHere i (s.setInbox rest).swap = .next t := by
    rw [runHere_eq_exec hlost, hswap, he]
  have hback : t.swap = { t with blk := s.blk, second := some t.blk } := State.swap_of_pair (exec_servedOnce he).second
  rw [step_request hin rfl]
  simp only [runAt, State.setInbox_second, h2, hrun, swapBack, hback]

/-- A fresh instance alone on its chip meets the three step invariants. -/
theorem construct_meetsInvariants {c : Cfg} (h : c.wf = true) :
    (State.construct c).Settled ∧ (State.construct c).HistoryInOrder ∧ (State.construct c).DrivesTheLine :=
  ⟨⟨Block.construct_settled h, by simp [State.construct]⟩, rfl, rfl, rfl, rfl⟩

/-- Settles O2: a fresh instance is settled, and an empty history is in order and leaves the line released. -/
theorem constructionMeetsTheInvariants : Obligations.ConstructionMeetsTheInvariants := by
  refine ⟨fun c hc => construct_meetsInvariants hc, fun c d hc hd => ⟨⟨Block.construct_settled hc, ?_⟩, rfl⟩,
    construct_meetsInvariants rfl⟩
  intro b hb
  obtain rfl : Block.construct d = b := by simpa [State.constructPair] using hb
  exact Block.construct_settled hd

end Sys2Proof.Claims
end

/-! PROOFS of the family spec/20_memory.md: which frames a request adds to the history, and that a host operation's are
the frames of R71. -/

section
namespace Sys2Proof.Machine

/-- `t` has the history of `s` and some events more, whose frames, answered or not, all satisfy `P`. -/
def AddsFramesOnly (P : List Byte → Prop) (s t : State) : Prop :=
  ∃ evs : List Event, t.events = s.events ++ evs ∧ ∀ e ∈ evs, ∀ tx, e.sent = some tx → P tx

/-- The frame of an exchange is one that the exchange may carry. -/
theorem Event.IsExchange.sent {P : List Byte → Prop} {e : Event} {tx : List Byte} (h : e.IsExchange P)
    (hs : e.sent = some tx) : P tx := by
  cases e with
  | csAssert | csDeassert => exact h.elim
  | exchange tx' rx =>
    obtain rfl := Option.some.inj hs
    exact h.2
  | exchangeFail tx' =>
    obtain rfl := Option.some.inj hs
    exact h

/-- The chip-select event of an operation's first `Select` carries no frame (R13). -/
theorem sent_of_mem_openEvents {s : State} {e : Event} (h : e ∈ s.openEvents) : e.sent = none := by
  obtain ⟨-, rfl⟩ : s.blk.selCount = 0 ∧ e = .csAssert := by simpa [State.openEvents] using h
  rfl

/-- The chip-select event of its last `Deselect` carries none either. -/
theorem sent_of_mem_closeEvents {s : State} {e : Event} (h : e ∈ s.closeEvents) : e.sent = none := by
  obtain ⟨-, rfl⟩ : s.blk.selCount = 0 ∧ e = .csDeassert := by simpa [State.closeEvents] using h
  rfl

/-- A request that adds events without a frame. -/
theorem AddsFramesOnly.of_noFrame {P : List Byte → Prop} {s t : State} {evs : List Event}
    (he : t.events = s.events ++ evs) (hn : ∀ e ∈ evs, e.sent = none) : AddsFramesOnly P s t :=
  ⟨evs, he, fun e hm tx hs => by simp [hn e hm] at hs⟩

/-- A request that only records its outcome. -/
theorem AddsFramesOnly.of_conclude {P : List Byte → Prop} (s : State) (v : Verdict) :
    AddsFramesOnly P s (s.conclude v) :=
  .of_noFrame (evs := []) (by simp) (by simp)

/-- An accepted `select` sends nothing (R96). -/
theorem addsFramesOnly_select {P : List Byte → Prop} {s : State} (hr : s.ready = true) :
    AddsFramesOnly P s (serve .select (fun u => (selectStep u).andThen fun _ w => .ret .unit w) s) :=
  .of_noFrame (serve_select_events hr) fun _ => sent_of_mem_openEvents

/-- An accepted `deselect` sends nothing (R97). -/
theorem addsFramesOnly_deselect {P : List Byte → Prop} {s : State} (hr : s.ready = true) :
    AddsFramesOnly P s (serve .deselect (fun u => (deselectStep u).andThen fun _ w => .ret .unit w) s) := by
  refine .of_noFrame (serve_deselect_events hr) fun e hm => ?_
  obtain ⟨-, rfl⟩ : s.blk.selCount = 1 ∧ e = .csDeassert := by simpa using hm
  rfl

/-- A bus operation that ended normally or by `TransportFailure` adds the frames of its exchanges alone. -/
theorem Completed.addsFramesOnly {P : List Byte → Prop} {n : Nat} {s t : State} (h : Completed P n s t) :
    AddsFramesOnly P s t := by
  obtain ⟨evs, -, hex, hev⟩ := h.events
  refine ⟨s.openEvents ++ evs ++ s.closeEvents, by simpa using hev, fun e hm tx hs => ?_⟩
  rcases List.mem_append.1 hm with hm | hclose
  · rcases List.mem_append.1 hm with hopen | hbus
    · simp [sent_of_mem_openEvents hopen] at hs
    · exact (hex e hbus).sent hs
  · simp [sent_of_mem_closeEvents hclose] at hs

/-- So does one that faulted. -/
theorem Broken.addsFramesOnly {P : List Byte → Prop} {n : Nat} {s t : State} (h : Broken P n s t) :
    AddsFramesOnly P s t := by
  obtain ⟨evs, -, hex, hev⟩ := h.events
  refine ⟨s.openEvents ++ evs, by simpa using hev, fun e hm tx hs => ?_⟩
  rcases List.mem_append.1 hm with hopen | hbus
  · simp [sent_of_mem_openEvents hopen] at hs
  · exact (hex e hbus).sent hs

/-- Every instruction adds to the history the frames it may send and no others (R42). -/
theorem exec_addsFramesOnly {i : Instr} {s t : State} (h : exec i s = .next t) :
    AddsFramesOnly (Sends s.blk.cfg.potIndex i) s t := by
  rcases exec_next_cases h with
    ⟨-, v, rfl, -⟩ | ⟨-, -, rfl⟩ | ⟨-, hr, rfl⟩ | ⟨-, hr, rfl⟩ | ⟨-, -, -, -, hc | hb⟩
  · exact .of_conclude s v
  · exact .of_conclude s _
  · exact addsFramesOnly_select hr
  · exact addsFramesOnly_deselect hr
  · exact hc.addsFramesOnly
  · exact hb.addsFramesOnly

end Sys2Proof.Machine

namespace Sys2Proof.Claims
open Sys2Proof.Machine

/-- READ TCON is a frame of R71, for either potentiometer. -/
theorem listedFrame_readTcon (p : PotIndex) : listedFrame p (readFrame tconAddr) :=
  .inr (.inr (.inr (.inl readFrame_tcon)))

/-- READ STATUS is a frame of R71, for either potentiometer (R116). -/
theorem listedFrame_readStatus (p : PotIndex) : listedFrame p (readFrame statusAddr) :=
  .inr (.inr (.inr (.inr (.inl readFrame_status))))

/-- WRITE of any byte to TCON is a frame of R71 (conflict C1). -/
theorem listedFrame_writeTcon (p : PotIndex) (n : Byte) : listedFrame p (tconWriteFrame n) :=
  .inr (.inr (.inr (.inr (.inr (.inr ⟨n, tconWriteFrame_eq n⟩)))))

/-- WRITE of a clamped value to the wiper is a frame of R71: the clamp leaves 0..256 (R102). -/
theorem listedFrame_writeClamped (c : Cfg) (p : PotIndex) (v : Nat) :
    listedFrame p (buildFrame (wiperAddr p) .write (some (clampedValue c v))) :=
  .inr (.inr (.inr (.inr (.inr (.inl
    ⟨min v (maxByTable c), (Nat.min_le_right _ _).trans (maxByTable_le c), buildFrame_clamped c p v⟩)))))

/-- The frames a host operation may send are those of R71 for its potentiometer. -/
theorem listedFrame_of_sends {p : PotIndex} {i : Instr} {tx : List Byte} (hi : hostOperation i = true)
    (h : Sends p i tx) : listedFrame p tx := by
  cases i with
  | increment => exact .inl (h.trans (buildFrame_increment p))
  | decrement => exact .inr (.inl (h.trans (buildFrame_decrement p)))
  | get => exact .inr (.inr (.inl (h.trans (readFrame_wiper p))))
  | set v =>
    obtain ⟨c, -, rfl⟩ := h
    exact listedFrame_writeClamped c p v.toNat
  | setTerminalAStatus | setTerminalBStatus | setWiperStatus | setShutdownStatus =>
    rcases h with rfl | ⟨n, rfl⟩
    · exact listedFrame_readTcon p
    · exact listedFrame_writeTcon p n
  | getTerminalAStatus | getTerminalBStatus | getWiperStatus | getShutdownStatus =>
    obtain rfl := h
    exact listedFrame_readTcon p
  | getHardwareShutdownStatus =>
    obtain rfl := h
    exact listedFrame_readStatus p
  | maxValue | select | deselect => exact h.elim
  | _ => simp [hostOperation] at hi

/-- Settles O10: an instruction adds the frames it may send, and a host operation's are listed. -/
theorem hostOperationsSendListedFramesOnly : Obligations.HostOperationsSendListedFramesOnly := by
  intro i s t hi h
  obtain ⟨evs, hev, hsent⟩ := exec_addsFramesOnly h
  exact ⟨evs, hev, fun e hm tx hs => listedFrame_of_sends hi (hsent e hm tx hs)⟩

end Sys2Proof.Claims
end

/-! PROOFS of the family spec/30_encoding.md: the frames and the rows the decoder makes of them, what is no frame, which
frames the reference device admits, and what a frame row sends. -/

section
namespace Sys2Proof

/-! ### The row of each frame -/

@[simp] theorem writeRow_wiper0 {v : U9} (h : isWiperData v = true) : writeRow 0x0#4 v = .writeWiper0 v := by
  simp [writeRow, h]

@[simp] theorem writeRow_wiper1 {v : U9} (h : isWiperData v = true) : writeRow 0x1#4 v = .writeWiper1 v := by
  simp [writeRow, h]

/-- The frame of a TCON write is the emitted row's (R71, conflict C1). -/
@[simp] theorem writeRow_tcon (n : Byte) : writeRow 0x4#4 (tconWireData n) = .writeTcon n := by
  simp [writeRow, isTconData_tconWireData, tconWireData_low]

/-- A WRITE frame that no emitted row names is the generic row's (log 14). -/
theorem writeRow_generic {a : U4} {v : U9} (h : (Instr.write a v).wf = true) : writeRow a v = .write a v := by
  obtain ⟨hwiper, htcon⟩ : (isWiperAddr a = true → isWiperData v = false) ∧ (a = 0x4#4 → isTconData v = false) := by
    simpa [Instr.wf, imp_iff_not_or] using h
  rw [writeRow, if_neg, if_neg, if_neg]
  · rintro ⟨rfl, hv⟩
    simp [htcon rfl] at hv
  · rintro ⟨rfl, hv⟩
    simp [hwiper rfl] at hv
  · rintro ⟨rfl, hv⟩
    simp [hwiper rfl] at hv

/-- A READ frame that no emitted row names is the generic row's (log 14). -/
theorem readRow_generic {a : U4} {v : U9} (h : (Instr.read a v).wf = true) : readRow a v = .read a v := by
  have hread : v = 0x1FF#9 → isReadAddr a = false := by
    simpa [Instr.wf, imp_iff_not_or, or_comm] using h
  have hne : ∀ b : U4, isReadAddr b = true → ¬ (a = b ∧ v = 0x1FF#9) := by
    rintro b hb ⟨rfl, hv⟩
    simp [hread hv] at hb
  simp only [readRow, hne 0x0#4 rfl, hne 0x1#4 rfl, hne 0x4#4 rfl, hne 0x5#4 rfl, if_false]

/-- An address that is no wiper's is neither 0 nor 1 (R62). -/
theorem isWiperAddr_eq_false {a : U4} : isWiperAddr a = false ↔ a ≠ 0x0#4 ∧ a ≠ 0x1#4 := by
  simp [isWiperAddr]

theorem incrRow_generic {a : U4} (h : isWiperAddr a = false) : incrRow a = .incr a := by
  obtain ⟨h0, h1⟩ := isWiperAddr_eq_false.1 h
  simp [incrRow, h0, h1]

theorem decrRow_generic {a : U4} (h : isWiperAddr a = false) : decrRow a = .decr a := by
  obtain ⟨h0, h1⟩ := isWiperAddr_eq_false.1 h
  simp [decrRow, h0, h1]

/-- The row of a WRITE frame is well formed and encodes to the frame. -/
theorem writeRow_spec (a : U4) (v : U9) :
    (writeRow a v).wf = true ∧ encode (writeRow a v) = some (dataFrame a .write v) := by
  unfold writeRow
  split_ifs with h0 h1 h4
  · obtain ⟨rfl, hv⟩ := h0
    exact ⟨hv, rfl⟩
  · obtain ⟨rfl, hv⟩ := h1
    exact ⟨hv, rfl⟩
  · obtain ⟨rfl, hv⟩ := h4
    exact ⟨rfl, by rw [encode, tconWireData_of_isTconData hv]⟩
  · refine ⟨?_, rfl⟩
    simp only [Instr.wf, isWiperAddr]
    grind

/-- The row of an INCREMENT frame is well formed and encodes to the frame. -/
theorem incrRow_spec (a : U4) :
    (incrRow a).wf = true ∧ encode (incrRow a) = some [ctrlByte a .increment false] := by
  unfold incrRow
  split_ifs with h0 h1
  · exact ⟨rfl, h0 ▸ rfl⟩
  · exact ⟨rfl, h1 ▸ rfl⟩
  · exact ⟨by simp [Instr.wf, isWiperAddr, h0, h1], rfl⟩

/-- The row of a DECREMENT frame is well formed and encodes to the frame. -/
theorem decrRow_spec (a : U4) :
    (decrRow a).wf = true ∧ encode (decrRow a) = some [ctrlByte a .decrement false] := by
  unfold decrRow
  split_ifs with h0 h1
  · exact ⟨rfl, h0 ▸ rfl⟩
  · exact ⟨rfl, h1 ▸ rfl⟩
  · exact ⟨by simp [Instr.wf, isWiperAddr, h0, h1], rfl⟩

/-- The row of a READ frame is well formed and encodes to the frame. -/
theorem readRow_spec (a : U4) (v : U9) :
    (readRow a v).wf = true ∧ encode (readRow a v) = some (dataFrame a .read v) := by
  unfold readRow
  split_ifs with h0 h1 h4 h5
  · exact ⟨rfl, h0.1 ▸ h0.2 ▸ rfl⟩
  · exact ⟨rfl, h1.1 ▸ h1.2 ▸ rfl⟩
  · exact ⟨rfl, h4.1 ▸ h4.2 ▸ rfl⟩
  · exact ⟨rfl, h5.1 ▸ h5.2 ▸ rfl⟩
  · refine ⟨?_, rfl⟩
    simp only [Instr.wf, isReadAddr, isWiperAddr]
    grind

/-- `f` is a frame of R72's four kinds, and `i` the row the decoder makes of it. -/
inductive RowOfFrame : Instr → List Byte → Prop
  | write (a : U4) (v : U9) : RowOfFrame (writeRow a v) (dataFrame a .write v)
  | increment (a : U4) : RowOfFrame (incrRow a) [ctrlByte a .increment false]
  | decrement (a : U4) : RowOfFrame (decrRow a) [ctrlByte a .decrement false]
  | read (a : U4) (v : U9) : RowOfFrame (readRow a v) (dataFrame a .read v)

/-- A frame at the head of a stream decodes to its row. -/
theorem RowOfFrame.decode_append {i : Instr} {f : List Byte} (h : RowOfFrame i f) (rest : List Byte) :
    decode (f ++ rest) = .ok (i, rest) := by
  cases h with
  | write a v => exact decode_dataFrame_write a v rest
  | increment a => exact decode_increment a rest
  | decrement a => exact decode_decrement a rest
  | read a v => exact decode_dataFrame_read a v rest

/-- The row of a frame is well formed and encodes to that frame. -/
theorem RowOfFrame.wf_and_encode {i : Instr} {f : List Byte} (h : RowOfFrame i f) :
    i.wf = true ∧ encode i = some f := by
  cases h with
  | write a v => exact writeRow_spec a v
  | increment a => exact incrRow_spec a
  | decrement a => exact decrRow_spec a
  | read a v => exact readRow_spec a v

/-- A well-formed row is the one the decoder makes of its encoding. -/
theorem rowOfFrame_of_encode {i : Instr} {f : List Byte} (hw : i.wf = true) (he : encode i = some f) :
    RowOfFrame i f := by
  cases i <;> simp only [encode, Option.some.injEq, reduceCtorEq] at he <;> subst he
  case write a v => simpa only [writeRow_generic hw] using RowOfFrame.write a v
  case incr a => simpa only [incrRow_generic (by simpa [Instr.wf] using hw)] using RowOfFrame.increment a
  case decr a => simpa only [decrRow_generic (by simpa [Instr.wf] using hw)] using RowOfFrame.decrement a
  case read a v => simpa only [readRow_generic hw] using RowOfFrame.read a v
  case writeWiper0 v => simpa only [writeRow_wiper0 hw] using RowOfFrame.write 0x0#4 v
  case writeWiper1 v => simpa only [writeRow_wiper1 hw] using RowOfFrame.write 0x1#4 v
  case writeTcon n => simpa only [writeRow_tcon] using RowOfFrame.write 0x4#4 (tconWireData n)
  case incrWiper0 => exact .increment 0x0#4
  case incrWiper1 => exact .increment 0x1#4
  case decrWiper0 => exact .decrement 0x0#4
  case decrWiper1 => exact .decrement 0x1#4
  case readWiper0 => exact .read 0x0#4 0x1FF#9
  case readWiper1 => exact .read 0x1#4 0x1FF#9
  case readTcon => exact .read 0x4#4 0x1FF#9
  case readStatus => exact .read 0x5#4 0x1FF#9

/-! ### What decodes, and what is no frame -/

/-- A 2-byte frame from its fields. -/
theorem dataFrame_dataValue (a : U4) (c : Command) (d8 : Bool) (d : Byte) :
    dataFrame a c (dataValue d8 d) = [ctrlByte a c d8, d] := by
  simp [dataFrame]

/-- A data byte that was taken stood at the head of the bytes. -/
theorem takeDataByte_ok {d8 : Bool} {row : U9 → Instr} {bs rest : List Byte} {i : Instr}
    (h : takeDataByte d8 row bs = .ok (i, rest)) : ∃ d, bs = d :: rest ∧ i = row (dataValue d8 d) := by
  cases bs with
  | nil => simp [takeDataByte] at h
  | cons d ds =>
    obtain ⟨rfl, rfl⟩ : row (dataValue d8 d) = i ∧ ds = rest := by simpa [takeDataByte] using h
    exact ⟨d, rfl, rfl⟩

/-- A frame taken with no data byte has `D8 = 0` (R66). -/
theorem noDataByte_ok {d8 : Bool} {row i : Instr} {bs rest : List Byte}
    (h : noDataByte d8 row bs = .ok (i, rest)) : d8 = false ∧ bs = rest ∧ i = row := by
  cases d8 with
  | true => simp [noDataByte] at h
  | false =>
    obtain ⟨rfl, rfl⟩ : row = i ∧ bs = rest := by simpa [noDataByte] using h
    exact ⟨rfl, rfl, rfl⟩

/-- Whatever decodes begins with a frame, and the instruction is its row. -/
theorem rowOfFrame_of_decode {bs rest : List Byte} {i : Instr} (h : decode bs = .ok (i, rest)) :
    ∃ f, RowOfFrame i f ∧ bs = f ++ rest := by
  cases bs with
  | nil => simp [decode] at h
  | cons b tail =>
    cases hr : ctrlReserved b with
    | false => simp [decode, hr] at h
    | true =>
      have hb := ctrlByte_of_fields b hr
      cases hc : ctrlCommand b <;> simp only [decode, hr, hc, if_true] at h <;> rw [hc] at hb
      case write =>
        obtain ⟨d, rfl, rfl⟩ := takeDataByte_ok h
        exact ⟨_, .write _ _, by simp [dataFrame_dataValue, hb]⟩
      case increment =>
        obtain ⟨h8, rfl, rfl⟩ := noDataByte_ok h
        exact ⟨_, .increment _, by simp [← h8, hb]⟩
      case decrement =>
        obtain ⟨h8, rfl, rfl⟩ := noDataByte_ok h
        exact ⟨_, .decrement _, by simp [← h8, hb]⟩
      case read =>
        obtain ⟨d, rfl, rfl⟩ := takeDataByte_ok h
        exact ⟨_, .read _ _, by simp [dataFrame_dataValue, hb]⟩

/-- A control byte with `R = 0` begins no frame (R74 (a)). -/
theorem decode_reservedBitClear {b : Byte} (hr : ctrlReserved b = false) (rest : List Byte) :
    decode (b :: rest) = .error .reservedBitClear := by
  simp [decode, hr]

/-- An INCREMENT or DECREMENT control byte with `D8 = 1` begins no frame (R74 (b)). -/
theorem decode_ctrlFrameWithD8 {b : Byte} (hr : ctrlReserved b = true) (h8 : ctrlD8 b = true)
    (hc : ctrlCommand b = .increment ∨ ctrlCommand b = .decrement) (rest : List Byte) :
    decode (b :: rest) = .error .ctrlFrameWithD8 := by
  rcases hc with hc | hc <;> simp [decode, hr, h8, hc, noDataByte]

/-- A WRITE or READ control byte alone is no frame (R72). -/
theorem decode_missingDataByte {b : Byte} (hr : ctrlReserved b = true)
    (hc : ctrlCommand b = .write ∨ ctrlCommand b = .read) : decode [b] = .error .missingDataByte := by
  rcases hc with hc | hc <;> simp [decode, hr, hc, takeDataByte]

/-- Bytes that do not decode are no one frame, for the same reason. -/
theorem decodeFrame_of_decode_error {bytes : List Byte} {e : DecodeError} (h : decode bytes = .error e) :
    decodeFrame bytes = .error e := by
  simp [decodeFrame, h]

/-! ### The bits of a frame as numbers (R60) -/

/-- The control byte `AAAACCRD` as a number, with `R = 1`. -/
theorem ctrlByte_eq_ofNat : ∀ (a : U4) (c : Command) (d8 : Bool),
    ctrlByte a c d8 = BitVec.ofNat 8 (16 * a.toNat + (4 * c.code.toNat + 2) + d8.toNat) := by
  intro a c
  revert a
  cases c <;> decide

/-- `D8` as a number is the ninth bit of the data value. -/
theorem bit8_toNat : ∀ v : U9, v[8].toNat = v.toNat / 256 := by decide

/-- A 2-byte frame as numbers. -/
theorem dataFrame_eq_ofNat (a : U4) (c : Command) (v : U9) :
    dataFrame a c v =
      [BitVec.ofNat 8 (16 * a.toNat + (4 * c.code.toNat + 2) + v.toNat / 256), BitVec.ofNat 8 (v.toNat % 256)] := by
  have hlow : v.setWidth 8 = BitVec.ofNat 8 (v.toNat % 256) := by
    apply BitVec.eq_of_toNat_eq
    simp
  rw [dataFrame, ctrlByte_eq_ofNat, bit8_toNat, hlow]

end Sys2Proof

namespace Sys2Proof.Machine

/-- A request whose bytes are no frame stops the run (R74). -/
theorem step_notAFrame {s : State} {r : Request} {rest : List Request} {e : DecodeError} (h : s.inbox = r :: rest)
    (hf : r.order.fetch = .error e) : step s = .refused (.notAFrame e) := by
  simp [step, takeRequest, h, hf]

end Sys2Proof.Machine

namespace Sys2Proof.Claims
open Sys2Proof.Machine

/-! ### What the reference device admits (R74, I4, I5) -/

theorem isSome_wiperOfAddr (a : U4) : (wiperOfAddr a).isSome = isWiperAddr a := by
  by_cases h0 : a = 0x0#4 <;> by_cases h1 : a = 0x1#4 <;> simp [wiperOfAddr, isWiperAddr, h0, h1]

theorem isSome_onWrite (d : RefDevice) (a : U4) (v : U9) :
    (d.onWrite a v).isSome = (isWiperAddr a || a == 0x4#4) := by
  rw [← isSome_wiperOfAddr, RefDevice.onWrite, tconAddr]
  cases wiperOfAddr a with
  | some p => rfl
  | none => by_cases h4 : a = 0x4#4 <;> simp [h4]

theorem isSome_onRead (d : RefDevice) (a : U4) : (d.onRead a).isSome = isReadAddr a := by
  rw [isReadAddr, ← isSome_wiperOfAddr, RefDevice.onRead, tconAddr, statusAddr]
  cases wiperOfAddr a with
  | some p => rfl
  | none => by_cases h4 : a = 0x4#4 <;> by_cases h5 : a = 0x5#4 <;> simp [h4, h5]

/-- WRITE is admitted at the wipers and TCON. -/
@[simp] theorem admits_write (d : RefDevice) (a : U4) (v : U9) :
    d.admits (dataFrame a .write v) = (isWiperAddr a || a == 0x4#4) := by
  rw [RefDevice.admits, respond_write, Option.isSome_map, isSome_onWrite]

/-- READ is admitted at the four registers, with the sentinel. -/
@[simp] theorem admits_read (d : RefDevice) (a : U4) (v : U9) :
    d.admits (dataFrame a .read v) = (isReadAddr a && v == 0x1FF#9) := by
  rw [RefDevice.admits, respond_read]
  by_cases hv : v = 0x1FF#9 <;> simp [hv, isSome_onRead]

/-- INCREMENT is admitted at the wipers. -/
@[simp] theorem admits_increment (d : RefDevice) (a : U4) :
    d.admits [ctrlByte a .increment false] = isWiperAddr a := by
  rw [RefDevice.admits, respond_increment, Option.isSome_map, isSome_wiperOfAddr]

/-- DECREMENT is admitted at the wipers. -/
@[simp] theorem admits_decrement (d : RefDevice) (a : U4) :
    d.admits [ctrlByte a .decrement false] = isWiperAddr a := by
  rw [RefDevice.admits, respond_decrement, Option.isSome_map, isSome_wiperOfAddr]

/-- The real device admits what any reference device admits: everything (R131). -/
theorem admits_of_reference {tx : List Byte} (h : ∀ d : RefDevice, d.admits tx = true) (l : Link) :
    l.admits tx = true := by
  cases l with
  | real answers => rfl
  | reference d fails => exact h d

/-! ### What a frame row sends -/

/-- Instruction `i` is the self-selecting transfer of `tx` (R93), its response read as R75 says. -/
def TransfersFrame (i : Instr) (tx : List Byte) : Prop :=
  ∃ use, (∀ s, exec i s = serveFrame i tx use s) ∧
    ∀ rx, rx.length = tx.length → ∀ s, use rx s = .ret (frameResult i rx) s

theorem transfersFrame_write (a : U4) (v : U9) : TransfersFrame (.write a v) (dataFrame a .write v) :=
  ⟨ignoreResponse, fun _ => rfl, fun _ _ _ => rfl⟩

theorem transfersFrame_read (a : U4) (v : U9) : TransfersFrame (.read a v) (dataFrame a .read v) :=
  ⟨readResponse a, fun _ => rfl, fun _ hl s => readResponse_eq a v hl s⟩

theorem transfersFrame_incr (a : U4) : TransfersFrame (.incr a) [ctrlByte a .increment false] :=
  ⟨ignoreResponse, fun s => by simp only [exec, execIncr, ctrlFrame_increment], fun _ _ _ => rfl⟩

theorem transfersFrame_decr (a : U4) : TransfersFrame (.decr a) [ctrlByte a .decrement false] :=
  ⟨ignoreResponse, fun s => by simp only [exec, execDecr, ctrlFrame_decrement], fun _ _ _ => rfl⟩

/-- An admitted frame answered in its length: one exchange inside one selection, and R75's result. -/
theorem TransfersFrame.received {i : Instr} {s : State} {tx rx : List Byte} {l : Link} {n : Nat}
    (h : TransfersFrame i tx) (hs : s.CanSelect) (ha : s.link.admits tx = true)
    (hx : s.link.exchange tx s.draws = (.received rx, l, n)) (hlen : rx.length = tx.length) :
    exec i s = .next (s.ran l n [.exchange tx rx] (.ok (frameResult i rx))) := by
  obtain ⟨use, hexec, huse⟩ := h
  rw [hexec, serveFrame_admitted ha, serve_transfer_received hs hx hlen (huse rx hlen)]

/-- A frame not admitted by the reference device stops the run, where it comes to the device (log 6). -/
theorem TransfersFrame.refused {i : Instr} {s : State} {tx : List Byte} {d : RefDevice} {fails : List Bool}
    (h : TransfersFrame i tx) (hr : s.ready = true) (hf : s.blk.cfg.fits (s.blk.selCount + 1) = true)
    (hl : s.link = .reference d fails) (ha : d.admits tx = false) : exec i s = .refused .deviceRefusesFrame := by
  obtain ⟨use, hexec, -⟩ := h
  rw [hexec, serveFrame_refused hr hf]
  rwa [hl]

/-! ### The emitted rows -/

/-- An emitted row with an admitted operand is well formed. -/
theorem wf_of_emittedBytes {i : Instr} {tx : List Byte} (h : emittedBytes i = some tx) : i.wf = true := by
  cases i <;> simp only [emittedBytes, reduceCtorEq, Option.ite_none_right_eq_some] at h
  case writeWiper0 | writeWiper1 => exact decide_eq_true h.1
  all_goals rfl

/-- It encodes to the bytes of R71. -/
theorem encode_of_emittedBytes {i : Instr} {tx : List Byte} (h : emittedBytes i = some tx) : encode i = some tx := by
  cases i <;> simp only [emittedBytes, reduceCtorEq, Option.ite_none_right_eq_some] at h
  case writeWiper0 v =>
    obtain ⟨hv, htx⟩ := h
    rw [← htx, encode, setBytes_pot0 v hv]
  case writeWiper1 v =>
    obtain ⟨hv, htx⟩ := h
    rw [← htx, encode, setBytes_pot1 v hv]
  case writeTcon n => rw [← h, encode, writeTconBytes_eq]
  all_goals exact h

/-- The reference device admits every emitted frame. -/
theorem admits_of_emittedBytes {i : Instr} {tx : List Byte} (h : emittedBytes i = some tx) (d : RefDevice) :
    d.admits tx = true := by
  have he := encode_of_emittedBytes h
  cases i <;> simp only [emittedBytes, reduceCtorEq] at h <;> obtain rfl := Option.some.inj he
  case writeWiper0 | writeWiper1 | writeTcon => exact admits_write d _ _
  case incrWiper0 | incrWiper1 => exact admits_increment d _
  case decrWiper0 | decrWiper1 => exact admits_decrement d _
  case readWiper0 | readWiper1 | readTcon | readStatus => exact admits_read d _ _

/-! ### The statements -/

/-- Settles O47: a well-formed row is the one the decoder makes of its frame. -/
theorem decodeOfEncodeIsTheInstruction : Obligations.DecodeOfEncodeIsTheInstruction :=
  fun _ _ rest hw he => (rowOfFrame_of_encode hw he).decode_append rest

/-- Settles O48: what decodes begins with a frame, whose row is well formed and encodes to it. -/
theorem encodeOfDecodeIsTheBytes : Obligations.EncodeOfDecodeIsTheBytes := by
  intro i bs rest h
  obtain ⟨f, hrow, hbs⟩ := rowOfFrame_of_decode h
  obtain ⟨hw, he⟩ := hrow.wf_and_encode
  exact ⟨hw, f, he, hbs⟩

/-- Settles O38: an emitted row is well formed, so it transfers its encoding, which every device admits. -/
theorem emittedFramesSendTheirBytes : Obligations.EmittedFramesSendTheirBytes := by
  intro i s tx rx l n hs h hx hlen
  have ht : TransfersFrame i tx := exec_frameRow (wf_of_emittedBytes h) (encode_of_emittedBytes h)
  exact ht.received hs.canSelect (admits_of_reference (admits_of_emittedBytes h) s.link) hx hlen

/-- Settles O39: the bits of each generic frame are those of its control byte and its data value. -/
theorem genericFramesSendTheirBits : Obligations.GenericFramesSendTheirBits := by
  intro a data s rx l n hs i tx hi ha hx hlen
  have ht : TransfersFrame i tx := by
    rcases hi with ⟨rfl, rfl⟩ | ⟨rfl, rfl⟩ | ⟨rfl, rfl⟩ | ⟨rfl, rfl⟩
    · exact dataFrame_eq_ofNat a .write data ▸ transfersFrame_write a data
    · exact dataFrame_eq_ofNat a .read data ▸ transfersFrame_read a data
    · exact ctrlByte_eq_ofNat a .increment false ▸ transfersFrame_incr a
    · exact ctrlByte_eq_ofNat a .decrement false ▸ transfersFrame_decr a
  exact ht.received hs.canSelect ha hx hlen

/-- Settles O41: none of these frames is admitted. -/
theorem deviceRefusesUnlistedFrames : Obligations.DeviceRefusesUnlistedFrames := by
  intro a data s d fails hr hf hl
  refine ⟨fun h0 h1 => ⟨?_, ?_⟩, fun h0 h1 h4 => ?_, fun h => ?_⟩
  · exact (transfersFrame_incr a).refused hr hf hl (by simp [isWiperAddr, h0, h1])
  · exact (transfersFrame_decr a).refused hr hf hl (by simp [isWiperAddr, h0, h1])
  · exact (transfersFrame_write a data).refused hr hf hl (by simp [isWiperAddr, h0, h1, h4])
  · refine (transfersFrame_read a data).refused hr hf hl ?_
    rcases h with ⟨h0, h1, h4, h5⟩ | hdata
    · simp [isReadAddr, isWiperAddr, h0, h1, h4, h5]
    · simp [hdata]

/-- Settles O49: row by row, the bytes of R71 are the frame of the row's address, command and data. -/
theorem emittedRowsEncodeAsListed : Obligations.EmittedRowsEncodeAsListed := fun _ _ => encode_of_emittedBytes

/-- Settles O50: the reserved bit is looked at first, then the command, which tells whether `D8` may be set and a data byte
follows. -/
theorem decoderRefusesByName : Obligations.DecoderRefusesByName := by
  refine ⟨rfl, fun b rest => ⟨fun hr => decode_reservedBitClear hr rest, fun hr h8 hc => ?_, fun hr hc => ?_⟩⟩
  · refine decode_ctrlFrameWithD8 hr h8 ?_ rest
    rcases hc with hc | hc <;> simp [ctrlCommand, hc, Command.ofCode]
  · refine decode_missingDataByte hr ?_
    rcases hc with hc | hc <;> simp [ctrlCommand, hc, Command.ofCode]

/-- Settles O51: fourteen closed words, each decoded by the kernel. -/
theorem writtenOutWordsDecode : Obligations.WrittenOutWordsDecode := by
  unfold Obligations.WrittenOutWordsDecode
  decide

/-- Settles O53: the fetch of such bytes fails by the decoder's reason. -/
theorem stepRefusesWhatIsNoFrame : Obligations.StepRefusesWhatIsNoFrame :=
  fun _ _ _ _ _ hin hd => step_notAFrame hin (decodeFrame_of_decode_error hd)

end Sys2Proof.Claims
end

/-! PROOFS of the family spec/40_frame_codec.md: the frames `BuildFrame` makes, as the control byte of their fields, and
what the decoders read from two bytes. -/

section
namespace Sys2Proof

/-! ### Control bytes and data values -/

theorem code_ofCode : ∀ x : BitVec 2, (Command.ofCode x).code = x := by decide

/-- The command field of a control byte is the command's code (R64). -/
theorem ctrlByte_commandField (a : U4) (c : Command) (d8 : Bool) : (ctrlByte a c d8).extractLsb' 2 2 = c.code := by
  calc (ctrlByte a c d8).extractLsb' 2 2
      = (ctrlCommand (ctrlByte a c d8)).code := (code_ofCode _).symm
    _ = c.code := by rw [ctrlCommand_ctrlByte]

/-- The bits of a control byte are its fields (R60). -/
theorem fields_of_ctrlByte (a : U4) (c : Command) (d8 : Bool) :
    (ctrlByte a c d8)[1] = true ∧ (ctrlByte a c d8).extractLsb' 4 4 = a ∧
    (ctrlByte a c d8).extractLsb' 2 2 = c.code ∧ (ctrlByte a c d8)[0] = d8 :=
  ⟨ctrlReserved_ctrlByte a c d8, ctrlAddress_ctrlByte a c d8, ctrlByte_commandField a c d8, ctrlD8_ctrlByte a c d8⟩

theorem dataValue_toNat : ∀ (d8 : Bool) (d : Byte), (dataValue d8 d).toNat = d.toNat + if d8 then 256 else 0 := by
  decide

theorem dataValue_false : ∀ d : Byte, dataValue false d = d.setWidth 9 := by decide

end Sys2Proof

namespace Sys2Proof.Machine

/-! ### The frames of `BuildFrame` (R83) -/

/-- The `D8` that `BuildFrame` sends with data `v` (R83). -/
def sentD8 (v : U9) : Bool := v = 0x100#9 ∨ v = 0x1FF#9

@[simp] theorem sentD8_iff {v : U9} : sentD8 v = true ↔ v = 0x100#9 ∨ v = 0x1FF#9 := decide_eq_true_iff

theorem sentD8_toNat (v : U9) : (sentD8 v).toNat = if v = 0x100#9 ∨ v = 0x1FF#9 then 1 else 0 := by
  by_cases h : v = 0x100#9 ∨ v = 0x1FF#9 <;> simp [sentD8, h]

/-- Bit 8 of the data is kept exactly for these values (R87). -/
theorem sentD8_eq_bit8_iff : ∀ v : U9, sentD8 v = v[8] ↔ v.toNat ≤ 256 ∨ v = 0x1FF#9 := by decide

theorem sentD8_of_between {v : U9} (h1 : 257 ≤ v.toNat) (h2 : v.toNat ≤ 510) : sentD8 v = false := by
  rw [Bool.eq_false_iff, Ne, sentD8_iff]
  rintro (rfl | rfl)
  · exact absurd h1 (by decide)
  · exact absurd h2 (by decide)

theorem controlBase_eq : ∀ (a : U4) (c : Command), controlBase a c = ctrlByte a c false := by
  intro a c
  revert a
  cases c <;> decide

theorem controlBase_or_d8 : ∀ (a : U4) (c : Command), controlBase a c ||| 0x01#8 = ctrlByte a c true := by
  intro a c
  revert a
  cases c <;> decide

theorem buildFrame_none (a : U4) (c : Command) : buildFrame a c none = [ctrlByte a c false] :=
  congrArg (fun b => [b]) (controlBase_eq a c)

theorem buildFrame_some (a : U4) (c : Command) (v : U9) :
    buildFrame a c (some v) = [ctrlByte a c (sentD8 v), v.setWidth 8] := by
  by_cases h : v = 0x100#9 ∨ v = 0x1FF#9
  · simp only [buildFrame, if_pos h, controlBase_or_d8, sentD8_iff.mpr h]
  · simp only [buildFrame, if_neg h, controlBase_eq, Bool.eq_false_iff.mpr (mt sentD8_iff.mp h)]

end Sys2Proof.Machine

namespace Sys2Proof.Claims
open Sys2Proof.Machine

/-! ### What `DecodeWiper` reads (R84) -/

/-- `DecodeWiper` is the data value of `D8` of its first byte and of its second byte. -/
theorem decodeWiper_eq_dataValue (r0 r1 : Byte) : decodeWiper r0 r1 = dataValue (ctrlD8 r0) r1 :=
  BitVec.eq_of_toNat_eq ((decodeWiper_toNat r0 r1).trans (dataValue_toNat (ctrlD8 r0) r1).symm)

/-- It reads a built control byte's `D8`. -/
theorem decodeWiper_ctrlByte (a : U4) (c : Command) (d8 : Bool) (d : Byte) :
    decodeWiper (ctrlByte a c d8) d = dataValue d8 d := by
  rw [decodeWiper_eq_dataValue, ctrlD8_ctrlByte]

/-! ### The statements -/

/-- Settles O17: the frame is the control byte of its fields and the low data byte, here as numbers. -/
theorem buildFrameGivesTheFrame : Obligations.BuildFrameGivesTheFrame := by
  intro a c data s
  have hexec : exec (.buildFrame a c data) s = .next (s.conclude (.ok (.bytes (buildFrame a c data)))) := rfl
  rw [hexec, State.conclude]
  cases data with
  | none => simp [buildFrame_none, ctrlByte_eq_ofNat, Nat.add_assoc]
  | some v =>
    have hlow : v.setWidth 8 = BitVec.ofNat 8 (v.toNat % 256) := BitVec.eq_of_toNat_eq (by simp)
    simp only [buildFrame_some, ctrlByte_eq_ofNat, sentD8_toNat, hlow, Nat.add_assoc]

/-- Settles O18: `DecodeWiper`'s value is the position as a number. -/
theorem decodersGiveTheirValues : Obligations.DecodersGiveTheirValues := by
  intro r0 r1 s
  refine ⟨?_, rfl⟩
  rw [← decodeWiper_toNat]
  rfl

/-- Settles O19: the fields of the control byte read back, and `D8` is the one sent with the data. -/
theorem buildFrameInvariants : Obligations.BuildFrameInvariants := by
  intro a c data
  cases data with
  | none =>
    obtain ⟨hr, ha, hc, h8⟩ := fields_of_ctrlByte a c false
    exact ⟨_, _, buildFrame_none a c, hr, ha, hc, by simp, by simp [h8]⟩
  | some v =>
    obtain ⟨hr, ha, hc, h8⟩ := fields_of_ctrlByte a c (sentD8 v)
    exact ⟨_, _, buildFrame_some a c v, hr, ha, hc, by simp, by simp [h8]⟩

/-- Settles O20: the echo decodes to the `D8` sent and the low byte, which is the data where `D8` is the data's bit 8. -/
theorem echoedWriteRoundTrips : Obligations.EchoedWriteRoundTrips := by
  intro a v
  refine ⟨_, _, buildFrame_some a .write v, fun h => ?_, fun ⟨h1, h2⟩ => ?_⟩
  · rw [decodeWiper_ctrlByte, (sentD8_eq_bit8_iff v).mpr h, dataValue_split]
  · rw [decodeWiper_ctrlByte, sentD8_of_between h1 h2]
    refine ⟨dataValue_false _, fun heq => ?_⟩
    have hlt : (dataValue false (v.setWidth 8)).toNat < 256 := by simpa [dataValue_toNat] using Nat.mod_lt _ (by decide)
    rw [heq] at hlt
    omega

end Sys2Proof.Claims
end

/-! PROOFS of the family spec/41_select_and_exchange.md: `select` and `deselect` in numbers, an answer of the wrong length,
a counter with no room, and what stands between an operation's chip-select events. -/

section
namespace Sys2Proof.Machine

/-! ### The host's `select` and `deselect` in numbers -/

/-- A fault at the very first primitive of a request: the fault mark, the phase left at position 0, one verdict (R125). -/
theorem enterFault_setPhase (s : State) (i : Instr) (f : Fault) :
    (s.setPhase (.busy i 0)).enterFault f =
      { s with
        blk := { s.blk with phase := .busy i 0, faulted := true }
        verdicts := s.verdicts ++ [.fault f] } := rfl

/-- `select` with room (R90, R96). -/
theorem exec_select_ret {s : State} (hr : s.ready = true) (hf : s.blk.cfg.fits (s.blk.selCount + 1) = true) :
    exec .select s = .next (((s.setPhase (.busy .select 0)).selected.setPhase .idle).conclude (.ok .unit)) := by
  rcases serve_select_cases hr with ⟨-, h⟩ | ⟨hno, -⟩
  · exact congrArg Host.Outcome.next h
  · simp [hf] at hno

/-- `select` past the counter's width (R90). -/
theorem exec_select_overflow {s : State} (hr : s.ready = true) (hf : s.blk.cfg.fits (s.blk.selCount + 1) = false) :
    exec .select s = .next ((s.setPhase (.busy .select 0)).assertLine.enterFault .selectOverflow) := by
  rcases serve_select_cases hr with ⟨hyes, -⟩ | ⟨-, h⟩
  · simp [hf] at hyes
  · exact congrArg Host.Outcome.next h

/-- `deselect` of a held selection (R91, R97). -/
theorem exec_deselect_ret {s : State} (hr : s.ready = true) (hs : s.blk.selCount ≠ 0) :
    exec .deselect s = .next (((s.setPhase (.busy .deselect 0)).deselected.setPhase .idle).conclude (.ok .unit)) := by
  rcases serve_deselect_cases hr with ⟨-, h⟩ | ⟨h0, -⟩
  · exact congrArg Host.Outcome.next h
  · exact absurd h0 hs

/-- `deselect` with none held (R91). -/
theorem exec_deselect_underflow {s : State} (hr : s.ready = true) (hs : s.blk.selCount = 0) :
    exec .deselect s = .next ((s.setPhase (.busy .deselect 0)).enterFault .deselectUnderflow) := by
  rcases serve_deselect_cases hr with ⟨h0, -⟩ | ⟨-, h⟩
  · exact absurd hs h0
  · exact congrArg Host.Outcome.next h

/-- Inside a selection the line is not asserted again (R90). -/
theorem State.assertLine_held {s : State} (h : s.blk.selCount ≠ 0) : s.assertLine = s := if_neg h

/-! ### A line that is not asked for -/

/-- Without room for the selections before the exchange, no line is lost: the overflow comes first (R90). -/
theorem lineLost_of_noRoom {s : State} {i : Instr}
    (hf : s.blk.cfg.fits (s.blk.selCount + selectsBeforeExchange i) = false) : s.lineLost i = false := by
  simp [State.lineLost, State.reaches, hf]

end Sys2Proof.Machine

namespace Sys2Proof.Claims
open Sys2Proof.Machine

/-! ### The shapes of the host operations -/

/-- A host operation has no encoding (R12). -/
theorem encode_of_hostOperation {i : Instr} (h : hostOperation i = true) : encode i = none := by
  cases i <;> simp only [hostOperation, reduceCtorEq] at h <;> rfl

/-- A one-frame host operation is a bus operation around the transfer of its listed frame (R89, R93). -/
theorem exec_oneFrame {i : Instr} {s : State} {tx : List Byte} (h : oneFrame s.blk.cfg i = some tx) :
    ∃ (frame : State → List Byte) (use : List Byte → State → Exit Result),
      exec i s = .next (serve i (operation fun t => (transfer (frame t) t).andThen use) s) ∧
      ∀ t : State, t.blk.cfg = s.blk.cfg → frame t = tx := by
  cases i <;> simp only [oneFrame, reduceCtorEq] at h
  case set v =>
    simp only [Option.ite_none_left_eq_some] at h
    obtain ⟨hv, htx⟩ := h
    refine ⟨_, _, if_neg hv, fun t ht => ?_⟩
    rw [State.wiperAddr, ht, buildFrame_clamped]
    exact Option.some.inj htx
  case increment =>
    exact ⟨_, _, rfl, fun t ht => by rw [State.wiperAddr, ht, buildFrame_increment]; exact Option.some.inj h⟩
  case decrement =>
    exact ⟨_, _, rfl, fun t ht => by rw [State.wiperAddr, ht, buildFrame_decrement]; exact Option.some.inj h⟩
  case get =>
    exact ⟨_, _, rfl, fun t ht => by rw [State.wiperAddr, ht, readFrame_wiper]; exact Option.some.inj h⟩
  case getHardwareShutdownStatus =>
    exact ⟨_, _, rfl, fun _ _ => readFrame_status.trans (Option.some.inj h)⟩
  all_goals exact ⟨_, _, rfl, fun _ _ => readFrame_tcon.trans (Option.some.inj h)⟩

/-- Each TCON setter is the read-modify-write of the mask of its bit (R108 to R110, R114). -/
theorem exec_setter {i : Instr} {base : Nat} {v : Bool} (h : setterOf i = some (base, v)) :
    ∃ m, (∀ s, exec i s = .next (serve i (tconUpdateBit m v) s)) ∧ ∀ p, effMask p m = 0x01#8 <<< flagBit p base := by
  cases i <;> simp only [setterOf, reduceCtorEq, Option.some.injEq, Prod.mk.injEq] at h <;> obtain ⟨rfl, rfl⟩ := h
  case setTerminalBStatus => exact ⟨maskB, fun _ => rfl, fun p => (effMask_bits p).1⟩
  case setWiperStatus => exact ⟨maskW, fun _ => rfl, fun p => (effMask_bits p).2.1⟩
  case setTerminalAStatus => exact ⟨maskA, fun _ => rfl, fun p => (effMask_bits p).2.2.1⟩
  case setShutdownStatus => exact ⟨maskShdn, fun _ => rfl, fun p => (effMask_bits p).2.2.2⟩

/-- What a TCON setter does once its READ is answered: the WRITE of the byte with its one bit replaced (R106 steps 4
and 5). -/
theorem tconUpdateBit_write {p : PotIndex} {m : Byte} {base : Nat} (hm : effMask p m = 0x01#8 <<< flagBit p base)
    (v : Bool) (r0 r1 : Byte) {t : State} (ht : t.blk.cfg.potIndex = p) :
    withPair [r0, r1] (fun q0 q1 =>
        (transfer (tconWriteFrame (forceBit (decodeRegByte q0 q1) (t.effMask m) v)) t).andThen ignoreResponse) t =
      (transfer (writeTconBytes (withBit r1 (flagBit p base) v)) t).andThen ignoreResponse := by
  simp only [withPair, State.effMask, ht, hm, forceBit_eq, tconWriteFrame_eq, decodeRegByte]

/-! ### A counter with no room: what the overflow leaves -/

/-- Inside a selection with no room for the selections before the exchange, an instruction sets the fault mark and records
`SelectOverflow`, and the history, the link and the neighbour stay (R90, R125). -/
theorem exec_noRoom_effects {i : Instr} {s : State} (hx : i.exchanges = true) (hr : s.ready = true)
    (hline : s.blk.lineAgrees) (hs : 1 ≤ s.blk.selCount)
    (hf : s.blk.cfg.fits (s.blk.selCount + selectsBeforeExchange i) = false) :
    ∃ t, exec i s = .next t ∧ t.blk.faulted = true ∧ t.events = s.events ∧ t.link = s.link ∧ t.second = s.second ∧
      t.verdicts = s.verdicts ++ [.fault .selectOverflow] := by
  have hheld : s.blk.selCount ≠ 0 := by omega
  obtain ⟨k, d, hexec⟩ := exec_noRoom hx hr hline hheld hf
  exact ⟨_, hexec, rfl, by simp [State.stuck, State.openEvents_held hheld], rfl, rfl, rfl⟩

/-! ### A frame row whose exchange does not succeed -/

/-- The transport fails the frame (R121). -/
theorem TransfersFrame.failed {i : Instr} {s : State} {tx : List Byte} {l : Link} {n : Nat}
    (h : TransfersFrame i tx) (hs : s.CanSelect) (ha : s.link.admits tx = true)
    (hx : s.link.exchange tx s.draws = (.failed, l, n)) :
    exec i s = .next (s.ran l n [.exchangeFail tx] .transportFailure) := by
  obtain ⟨use, hexec, -⟩ := h
  rw [hexec, serveFrame_admitted ha, serve_transfer_failed hs hx]

/-- The answer has another length (R92, R125). -/
theorem TransfersFrame.mismatch {i : Instr} {s : State} {tx rx : List Byte} {l : Link} {n : Nat}
    (h : TransfersFrame i tx) (hs : s.CanSelect) (ha : s.link.admits tx = true)
    (hx : s.link.exchange tx s.draws = (.received rx, l, n)) (hlen : rx.length ≠ tx.length) :
    exec i s = .next (s.stuck i 1 1 l n [] .rxLengthMismatch) := by
  obtain ⟨use, hexec, -⟩ := h
  rw [hexec, serveFrame_admitted ha, serve_transfer_mismatch hs hx hlen]

/-! ### The events of a completed operation -/

/-- An exchange is an event of the bus. -/
theorem busEvent_of_isExchange {P : List Byte → Prop} {e : Event} (h : e.IsExchange P) : busEvent e = true := by
  cases e with
  | csAssert | csDeassert => exact h.elim
  | exchange | exchangeFail => rfl

/-- An operation's chip-select events stand around its exchanges where it starts from 0 (R95). -/
theorem openEvents_closeEvents (s : State) (evs : List Event) :
    s.openEvents ++ evs ++ s.closeEvents =
      if s.blk.selCount = 0 then [.csAssert] ++ evs ++ [.csDeassert] else evs := by
  by_cases h0 : s.blk.selCount = 0 <;> simp [State.openEvents, State.closeEvents, h0]

/-! ### The statements -/

/-- Settles O9: what uses no bus emits nothing, and a bus operation that did not fault completed. -/
theorem oneAssertionAroundAllExchanges : Obligations.OneAssertionAroundAllExchanges := by
  intro i s t hsel hdes hr h hf
  rcases exec_next_cases h with
    ⟨hbus, v, rfl, -⟩ | ⟨-, hno, -⟩ | ⟨rfl, -, -⟩ | ⟨rfl, -, -⟩ | ⟨hbus, -, -, -, hc | hb⟩
  · exact ⟨[], by simp, by simp, by simp [hbus]⟩
  · simp [hr] at hno
  · exact absurd rfl hsel
  · exact absurd rfl hdes
  · obtain ⟨evs, hle, hex, hev⟩ := hc.events
    refine ⟨evs, hle, fun e he => busEvent_of_isExchange (hex e he), ?_⟩
    rw [if_neg (by simp [hbus]), ← openEvents_closeEvents, hev]
    simp only [List.append_assoc]
  · simp [hb.faulted] at hf

/-- Settles O26: the transfer's fault ends the operation inside both selections. -/
theorem wrongLengthAnswerFaults : Obligations.WrongLengthAnswerFaults := by
  intro i s tx rx l n hs h hx hlen
  obtain ⟨frame, use, hexec, hframe⟩ := exec_oneFrame h
  rw [hexec, serve_oneFrame_mismatch hs hframe hx hlen]

/-- Settles O30: the READ's fault is that of a one-frame operation, the WRITE's follows the completed READ. -/
theorem wrongLengthAnswerFaultsSetters : Obligations.WrongLengthAnswerFaultsSetters := by
  intro i s base v rx l m n k hs h hlen
  obtain ⟨mask, hexec, hmask⟩ := exec_setter h
  rw [hexec, tconUpdateBit, readFrame_tcon]
  refine ⟨fun hx => ?_, fun r0 r1 hx hw => ?_⟩
  · rw [serve_oneFrame_mismatch (frame := fun _ => readTconBytes) hs (fun _ _ => rfl) hx hlen]
  · rw [serve_twoFrames_secondMismatch hs hx rfl (fun t ht => ?_) hw hlen]
    exact tconUpdateBit_write (hmask _) v r0 r1 (congrArg Cfg.potIndex ht)

/-- Settles O33: the state `Select` leaves, field by field. -/
theorem selectCountsUp : Obligations.SelectCountsUp := by
  intro s hr hf
  obtain ⟨hphase, -⟩ := (State.ready_iff s).1 hr
  rw [exec_select_ret hr hf]
  refine congrArg _ (State.eq_of_fields (Block.eq_of_fields ?_ ?_ (State.selected_csAsserted _) ?_ ?_) ?_ ?_ ?_
    (State.selected_events _) ?_ ?_) <;> simp [hphase]

/-- Settles O34: the state `Deselect` leaves, field by field. -/
theorem deselectCountsDown : Obligations.DeselectCountsDown := by
  intro s hr hs
  obtain ⟨hphase, -⟩ := (State.ready_iff s).1 hr
  have hlast : s.blk.selCount - 1 = 0 ↔ s.blk.selCount = 1 := by omega
  rw [exec_deselect_ret hr (by omega)]
  refine congrArg _ (State.eq_of_fields (Block.eq_of_fields ?_ ?_ ?_ ?_ ?_) ?_ ?_ ?_ ?_ ?_ ?_) <;>
    simp [hphase, hlast]

/-- Settles O35: the fault is taken from the state `Deselect` found. -/
theorem unmatchedDeselectFaults : Obligations.UnmatchedDeselectFaults := by
  intro s hr hs
  rw [exec_deselect_underflow hr hs, enterFault_setPhase]

/-- Settles O36: inside a selection the overflowing `Select` has moved nothing. -/
theorem selectPastTheWidthFaults : Obligations.SelectPastTheWidthFaults := by
  intro s hr hf hs
  have hheld : (s.setPhase (.busy .select 0)).blk.selCount ≠ 0 := Nat.one_le_iff_ne_zero.mp hs
  rw [exec_select_overflow hr hf, State.assertLine_held hheld, enterFault_setPhase]

/-- Settles O37: the body of every bus operation begins with a transfer, whose `Select` is the one that overflows. -/
theorem innerSelectPastTheWidthFaults : Obligations.InnerSelectPastTheWidthFaults := by
  intro i s hr hline h1 h2 hh hb hs hd
  have hx : i.exchanges = true := by simp [Instr.exchanges, hb, hs, hd]
  obtain ⟨frame, use, hexec⟩ := exec_hostExchange hx (encode_of_hostOperation hh) s
  rw [hexec, serve_overflow hr hline h1 h2]

/-- Settles O56: a frame row and a host operation both begin with a `Select`. -/
theorem outerSelectPastTheWidthFaults : Obligations.OuterSelectPastTheWidthFaults := by
  intro i s hr hf hs hx
  have hheld : s.blk.selCount ≠ 0 := by omega
  rw [← enterFault_setPhase]
  cases he : encode i with
  | some tx =>
    obtain ⟨tx, use, hexec⟩ := exec_transfer (i := i) (by simp [he])
    rw [hexec, serveFrame_full hr hheld hf]
  | none =>
    obtain ⟨frame, use, hexec⟩ := exec_hostExchange hx he s
    rw [hexec, serve_operation_full hr hheld hf]

/-- Settles O57: a well-formed row is the transfer of its encoding, by its three answers. -/
theorem frameRowsRunWithRoomForOneSelection : Obligations.FrameRowsRunWithRoomForOneSelection := by
  intro i s tx l n hs hw he ha
  have ht : TransfersFrame i tx := exec_frameRow hw he
  exact ⟨fun rx hx hlen => ht.received hs ha hx hlen, fun hx => ht.failed hs ha hx,
    fun rx hx hlen => ht.mismatch hs ha hx hlen⟩

/-- Settles O58: with no room the line is not asked for, so the request is served and overflows; for the second instance
with the two exchanged. -/
theorem noRoomFaultsOnAnyLine : Obligations.NoRoomFaultsOnAnyLine := by
  intro s b i rest h2 hx
  rw [← selectsBeforeExchange_eq]
  refine ⟨fun hin hr hline hs hf => ?_, fun hin hp hfa hline hs hf => ?_⟩
  · obtain ⟨t, hexec, hfault, hev, hlink, hsec, hv⟩ := exec_noRoom_effects (s := s.setInbox rest) hx hr hline hs hf
    exact ⟨t, (step_first hin rfl (lineLost_of_noRoom hf)).trans hexec, hfault, hev, hlink, hsec.trans h2, hv⟩
  · obtain ⟨t, hexec, hfault, hev, hlink, -, hv⟩ := exec_noRoom_effects
      (s := { s with blk := b, second := some s.blk, inbox := rest }) hx ((State.ready_iff _).2 ⟨hp, hfa⟩) hline hs hf
    have hstep := secondInstanceRunsByTheSameRules s t b i rest h2 hin (lineLost_of_noRoom hf) hexec
    exact ⟨_, t.blk, hstep, rfl, hfault, hev, hlink, rfl, hv⟩

end Sys2Proof.Claims
end

/-! PROOFS of the family spec/42_wiper_ops.md: what the wiper operations do on an answered exchange, what the
reference device makes of their frames, and the set/get law. -/

section
namespace Sys2Proof.Machine

/-- An accepted request that ran without touching the state is back where it began (R24). -/
theorem State.setPhase_idle_of_ready {s : State} (h : s.ready = true) (p : Phase) :
    (s.setPhase p).setPhase .idle = s := by
  obtain ⟨hphase, -⟩ := (State.ready_iff s).1 h
  refine State.eq_of_fields (Block.eq_of_fields rfl rfl rfl ?_ rfl) rfl rfl rfl rfl rfl rfl
  simp [hphase]

/-- An answered wiper command sends its one frame and ignores the response (R99). -/
theorem serve_wiperCommand_received {s : State} {i : Instr} {c : Command} {data : Option U9} {tx rx : List Byte}
    {l : Link} {n : Nat} (hs : s.CanRun) (htx : buildFrame (wiperAddr s.blk.cfg.potIndex) c data = tx)
    (hx : s.link.exchange tx s.draws = (.received rx, l, n)) (hlen : rx.length = tx.length) :
    serve i (wiperCommand c data) s = s.ran l n [.exchange tx rx] (.ok .unit) :=
  serve_oneFrame_received hs (fun t ht => by rw [State.wiperAddr, ht, htx]) hx hlen fun _ _ => rfl

@[simp] theorem wiperOfAddr_wiperAddr (p : PotIndex) : wiperOfAddr (wiperAddr p) = some p := by
  cases p <;> rfl

end Sys2Proof.Machine

namespace Sys2Proof.Claims
open Sys2Proof.Machine

/-! ### The wiper operations on an answered exchange -/

@[simp] theorem length_incrBytes (p : PotIndex) : (incrBytes p).length = 1 := by cases p <;> rfl

@[simp] theorem length_decrBytes (p : PotIndex) : (decrBytes p).length = 1 := by cases p <;> rfl

@[simp] theorem length_setBytes (p : PotIndex) (v : Nat) : (setBytes p v).length = 2 := by cases p <;> rfl

@[simp] theorem length_getBytes (p : PotIndex) : (getBytes p).length = 2 := by cases p <;> rfl

theorem exec_increment_received {s : State} {rx : List Byte} {l : Link} {n : Nat} (hs : s.CanRun)
    (hx : s.link.exchange (incrBytes s.blk.cfg.potIndex) s.draws = (.received rx, l, n)) (hlen : rx.length = 1) :
    exec .increment s = .next (s.ran l n [.exchange (incrBytes s.blk.cfg.potIndex) rx] (.ok .unit)) :=
  congrArg Host.Outcome.next (serve_wiperCommand_received hs (buildFrame_increment _) hx (by simpa using hlen))

theorem exec_decrement_received {s : State} {rx : List Byte} {l : Link} {n : Nat} (hs : s.CanRun)
    (hx : s.link.exchange (decrBytes s.blk.cfg.potIndex) s.draws = (.received rx, l, n)) (hlen : rx.length = 1) :
    exec .decrement s = .next (s.ran l n [.exchange (decrBytes s.blk.cfg.potIndex) rx] (.ok .unit)) :=
  congrArg Host.Outcome.next (serve_wiperCommand_received hs (buildFrame_decrement _) hx (by simpa using hlen))

/-- The refusal of a negative value is not reached (R126). -/
theorem exec_set_received {s : State} {value : Nat} {rx : List Byte} {l : Link} {n : Nat} (hs : s.CanRun)
    (hx : s.link.exchange (setBytes s.blk.cfg.potIndex (min value (maxByTable s.blk.cfg))) s.draws =
      (.received rx, l, n)) (hlen : rx.length = 2) :
    exec (.set value) s = .next (s.ran l n
      [.exchange (setBytes s.blk.cfg.potIndex (min value (maxByTable s.blk.cfg))) rx] (.ok .unit)) := by
  have hserve : exec (.set value) s =
      .next (serve (.set value) (wiperCommand .write (some (clampedValue s.blk.cfg value))) s) := by
    simp [exec, execSet]
  rw [hserve, serve_wiperCommand_received hs (buildFrame_clamped _ _ _) hx (by simpa using hlen)]

theorem exec_get_received {s : State} {r0 r1 : Byte} {l : Link} {n : Nat} (hs : s.CanRun)
    (hx : s.link.exchange (getBytes s.blk.cfg.potIndex) s.draws = (.received [r0, r1], l, n)) :
    exec .get s = .next (s.ran l n [.exchange (getBytes s.blk.cfg.potIndex) [r0, r1]]
      (.ok (.nat (positionOf r0 r1)))) :=
  congrArg Host.Outcome.next (serve_oneFrame_received hs (fun t ht => by rw [State.wiperAddr, ht, readFrame_wiper]) hx
    (length_getBytes _).symm fun t _ => wiperResponse_eq r0 r1 t)

/-! ### The reference device and the frames of the wiper operations (R130) -/

theorem respond_incrBytes (d : RefDevice) (p : PotIndex) :
    d.respond (incrBytes p) = some (incrBytes p, d.setWiper p (d.stepUp p)) := by
  simp [← buildFrame_increment, ctrlFrame_increment, respond_increment]

theorem respond_decrBytes (d : RefDevice) (p : PotIndex) :
    d.respond (decrBytes p) = some (decrBytes p, d.setWiper p (d.stepDown p)) := by
  simp [← buildFrame_decrement, ctrlFrame_decrement, respond_decrement]

theorem setBytes_eq_dataFrame (p : PotIndex) {v : U9} (h : v.toNat ≤ 256) :
    setBytes p v.toNat = dataFrame (wiperAddr p) .write v := by
  cases p
  · exact setBytes_pot0 v h
  · exact setBytes_pot1 v h

theorem respond_setBytes (d : RefDevice) (p : PotIndex) {v : U9} (h : v.toNat ≤ 256) :
    d.respond (setBytes p v.toNat) = some (setBytes p v.toNat, d.setWiper p v) := by
  simp [setBytes_eq_dataFrame p h, respond_write, RefDevice.onWrite]

theorem getBytes_eq_dataFrame (p : PotIndex) : getBytes p = dataFrame (wiperAddr p) .read readSentinel := by
  cases p <;> rfl

theorem respond_getBytes (d : RefDevice) (p : PotIndex) :
    d.respond (getBytes p) = some (wiperAnswer (d.wiper p), d) := by
  simp [getBytes_eq_dataFrame, respond_read, readSentinel, RefDevice.onRead]

/-- The two bytes that answer a READ of a wiper decode to its position (R84). -/
theorem positionOf_wiperAnswer : ∀ v : U9, positionOf ((BitVec.ofBool v[8]).setWidth 8) (v.setWidth 8) = v.toNat := by
  decide

theorem stepDown_of_wiper_eq_zero {d : RefDevice} {p : PotIndex} (h : (d.wiper p).toNat = 0) :
    (d.stepDown p).toNat = 0 := by
  simp [RefDevice.stepDown, h]

theorem stepUp_of_wiper_eq_dmax {d : RefDevice} {p : PotIndex} (h : (d.wiper p).toNat = (d.dmax p).toNat) :
    (d.stepUp p).toNat = (d.dmax p).toNat := by
  simp [RefDevice.stepUp, h]

/-! ### The wiper operations on the reference device -/

/-- `t` is `s` after an operation that completed with result `r` and left the reference device at `d`. -/
structure CompletedOnDevice (s t : State) (d : RefDevice) (r : Result) : Prop where
  blk : t.blk = s.blk
  link : t.link = .reference d []
  verdicts : t.verdicts = s.verdicts ++ [.ok r]

/-- A completed operation leaves the instance able to run the next one. -/
theorem CompletedOnDevice.canRun {s t : State} {d : RefDevice} {r : Result} (h : CompletedOnDevice s t d r)
    (hs : s.CanRun) : t.CanRun := by
  rwa [State.CanRun, State.ready, h.blk]

theorem completedOnDevice_ran (s : State) (d : RefDevice) (n : Nat) (evs : List Event) (r : Result) :
    CompletedOnDevice s (s.ran (.reference d []) n evs (.ok r)) d r :=
  ⟨rfl, rfl, rfl⟩

section
variable {s : State} {d : RefDevice}

/-- The exchange of a frame the reference device answers, on the link of a state. -/
theorem exchange_of_link {d' : RefDevice} {tx rx : List Byte} (hl : s.link = .reference d [])
    (h : d.respond tx = some (rx, d')) : s.link.exchange tx s.draws = (.received rx, .reference d' [], s.draws) := by
  rw [hl, exchange_reference _ h]

/-- `set` puts the clamped value into the wiper. -/
theorem exec_set_onDevice (hs : s.CanRun) (hl : s.link = .reference d []) (value : Nat) :
    ∃ t, exec (.set value) s = .next t ∧
      CompletedOnDevice s t (d.setWiper s.blk.cfg.potIndex (clampedValue s.blk.cfg value)) .unit := by
  have hle : (clampedValue s.blk.cfg value).toNat ≤ 256 := by
    rw [clampedValue_toNat]
    exact (min_le_right _ _).trans (maxByTable_le _)
  have hx := exchange_of_link hl (respond_setBytes d s.blk.cfg.potIndex hle)
  rw [clampedValue_toNat] at hx
  exact ⟨_, exec_set_received hs hx (length_setBytes _ _), completedOnDevice_ran ..⟩

theorem exec_increment_onDevice (hs : s.CanRun) (hl : s.link = .reference d []) :
    ∃ t, exec .increment s = .next t ∧
      CompletedOnDevice s t (d.setWiper s.blk.cfg.potIndex (d.stepUp s.blk.cfg.potIndex)) .unit :=
  ⟨_, exec_increment_received hs (exchange_of_link hl (respond_incrBytes d _)) (length_incrBytes _),
    completedOnDevice_ran ..⟩

theorem exec_decrement_onDevice (hs : s.CanRun) (hl : s.link = .reference d []) :
    ∃ t, exec .decrement s = .next t ∧
      CompletedOnDevice s t (d.setWiper s.blk.cfg.potIndex (d.stepDown s.blk.cfg.potIndex)) .unit :=
  ⟨_, exec_decrement_received hs (exchange_of_link hl (respond_decrBytes d _)) (length_decrBytes _),
    completedOnDevice_ran ..⟩

/-- `get` returns the wiper and leaves the device as it was. -/
theorem exec_get_onDevice (hs : s.CanRun) (hl : s.link = .reference d []) :
    ∃ t, exec .get s = .next t ∧ CompletedOnDevice s t d (.nat (d.wiper s.blk.cfg.potIndex).toNat) := by
  have hget := exec_get_received hs (exchange_of_link hl (respond_getBytes d _))
  rw [positionOf_wiperAnswer] at hget
  exact ⟨_, hget, completedOnDevice_ran ..⟩

end

/-! ### The statements -/

/-- Settles O21: the request's body returns at once, so the phase is `Idle` again and one outcome is recorded. -/
theorem maxValueReturnsTheTable : Obligations.MaxValueReturnsTheTable := by
  intro s hr
  have hserve : serve .maxValue (fun t => .ret (.nat (maxValue t.blk.cfg)) t) s =
      s.conclude (.ok (.nat (maxValue s.blk.cfg))) := by
    rw [serve_ready hr, Exit.finish, State.setPhase_idle_of_ready hr, State.setPhase_cfg]
  rw [← maxValue_eq]
  exact congrArg Host.Outcome.next hserve

/-- Settles O22: each is one answered wiper command. -/
theorem incrementAndDecrementSendOneFrame : Obligations.IncrementAndDecrementSendOneFrame :=
  fun _ _ _ _ hs => ⟨fun hx => exec_increment_received hs hx rfl, fun hx => exec_decrement_received hs hx rfl⟩

/-- Settles O23: the answered wiper command of the clamped value. -/
theorem setSendsTheClampedValue : Obligations.SetSendsTheClampedValue :=
  fun _ _ _ _ _ _ hs hx => exec_set_received hs hx rfl

/-- Settles O24: the answer's position is the result, and a failure is that of any one-frame operation. -/
theorem getReturnsTheDecodedPosition : Obligations.GetReturnsTheDecodedPosition := by
  intro s l n hs
  refine ⟨fun r0 r1 hx => exec_get_received hs hx, fun hx => ?_⟩
  obtain ⟨frame, use, hexec, hframe⟩ := exec_oneFrame (i := .get) (s := s) rfl
  rw [hexec, serve_oneFrame_failed hs hframe hx]

/-- Settles O45: each run is followed through the device's wiper, which `get` reads at the end. -/
theorem setGetLawOnTheReferenceDevice : Obligations.SetGetLawOnTheReferenceDevice := by
  intro s d hs hl
  refine ⟨fun value => ?_, ?_, fun hdmax => ?_⟩
  · obtain ⟨t, hset, ht⟩ := exec_set_onDevice hs hl value
    obtain ⟨u, hget, hu⟩ := exec_get_onDevice (ht.canRun hs) ht.link
    refine ⟨t, u, hset, hget, ?_⟩
    simp [hu.verdicts, ht.verdicts, ht.blk, clampedValue_toNat]
  · obtain ⟨t, hset, ht⟩ := exec_set_onDevice hs hl 0
    obtain ⟨u, hdecr, hu⟩ := exec_decrement_onDevice (ht.canRun hs) ht.link
    obtain ⟨w, hget, hw⟩ := exec_get_onDevice (hu.canRun (ht.canRun hs)) hu.link
    refine ⟨t, u, w, hset, hdecr, hget, ?_⟩
    have hzero := stepDown_of_wiper_eq_zero (p := s.blk.cfg.potIndex)
      (d := d.setWiper s.blk.cfg.potIndex (clampedValue s.blk.cfg 0)) (by simp [clampedValue_toNat])
    simp [hw.verdicts, hu.verdicts, ht.verdicts, hu.blk, ht.blk, hzero]
  · obtain ⟨t, hset, ht⟩ := exec_set_onDevice hs hl (maxByTable s.blk.cfg)
    obtain ⟨u, hincr, hu⟩ := exec_increment_onDevice (ht.canRun hs) ht.link
    obtain ⟨w, hget, hw⟩ := exec_get_onDevice (hu.canRun (ht.canRun hs)) hu.link
    refine ⟨t, u, w, hset, hincr, hget, ?_⟩
    have htop := stepUp_of_wiper_eq_dmax (p := s.blk.cfg.potIndex)
      (d := d.setWiper s.blk.cfg.potIndex (clampedValue s.blk.cfg (maxByTable s.blk.cfg)))
      (by simp [clampedValue_toNat, hdmax])
    simp [hw.verdicts, hu.verdicts, ht.verdicts, hu.blk, ht.blk, htop, hdmax]

end Sys2Proof.Claims
end

/-! PROOFS of the family spec/43_control_register_ops.md: what a TCON setter and a flag getter do on each answer, what the
reference device makes of their frames, and the isolation of the read-modify-write. -/

section
namespace Sys2Proof.Machine

/-- A flag read on an answered READ sends its one frame and returns the flag; `f` sees no more of the state than the
configuration (R107, R116). -/
theorem serve_readFlag_received {s : State} {i : Instr} {addr : U4} {f : State → Byte → Bool} {tx : List Byte}
    {r0 r1 : Byte} {l : Link} {n : Nat} {v : Bool} (hs : s.CanRun) (htx : readFrame addr = tx)
    (hx : s.link.exchange tx s.draws = (.received [r0, r1], l, n)) (hlen : tx.length = 2)
    (hf : ∀ t : State, t.blk.cfg = s.blk.cfg → f t r1 = v) :
    serve i (readFlag addr f) s = s.ran l n [.exchange tx [r0, r1]] (.ok (.bool v)) :=
  serve_oneFrame_received hs (fun _ _ => htx) hx hlen.symm fun t ht => by
    simp only [withPair, decodeRegByte, hf t ht]

end Sys2Proof.Machine

namespace Sys2Proof.Claims
open Sys2Proof.Machine

/-! ### The operations on each answer -/

/-- A one-frame host operation whose exchange fails (R121). -/
theorem exec_oneFrame_failed {i : Instr} {s : State} {tx : List Byte} {l : Link} {n : Nat} (hs : s.CanRun)
    (h : oneFrame s.blk.cfg i = some tx) (hx : s.link.exchange tx s.draws = (.failed, l, n)) :
    exec i s = .next (s.ran l n [.exchangeFail tx] .transportFailure) := by
  obtain ⟨frame, use, hexec, hframe⟩ := exec_oneFrame h
  rw [hexec, serve_oneFrame_failed hs hframe hx]

/-- A TCON getter's one frame is READ TCON (R107). -/
theorem oneFrame_of_getterOf {i : Instr} {b : Nat × Bool} (c : Cfg) (h : getterOf i = some b) :
    oneFrame c i = some readTconBytes := by
  cases i <;> simp only [getterOf, reduceCtorEq] at h <;> rfl

/-- Each TCON getter is a flag read of TCON: its bit, negated where the role is inverted (R111 to R113, R115). -/
theorem exec_getter {i : Instr} {base : Nat} {inverted : Bool} (h : getterOf i = some (base, inverted)) :
    ∃ f : State → Byte → Bool, (∀ s, exec i s = .next (serve i (readFlag tconAddr f) s)) ∧
      ∀ t b, f t b = (b.getLsbD (flagBit t.blk.cfg.potIndex base) != inverted) := by
  cases i <;> simp only [getterOf, reduceCtorEq, Option.some.injEq, Prod.mk.injEq] at h <;> obtain ⟨rfl, rfl⟩ := h
  case getTerminalBStatus =>
    exact ⟨_, fun _ => rfl, fun t b => by simp [State.effMask, (testBit_effMask b _).1]⟩
  case getWiperStatus =>
    exact ⟨_, fun _ => rfl, fun t b => by simp [State.effMask, (testBit_effMask b _).2.1]⟩
  case getTerminalAStatus =>
    exact ⟨_, fun _ => rfl, fun t b => by simp [State.effMask, (testBit_effMask b _).2.2.1]⟩
  case getShutdownStatus =>
    exact ⟨_, fun _ => rfl, fun t b => by simp [State.effMask, (testBit_effMask b _).2.2.2]⟩

/-- A TCON getter whose READ is answered (R107). -/
theorem exec_getter_received {i : Instr} {base : Nat} {inverted : Bool} {s : State} {r0 r1 : Byte} {l : Link} {n : Nat}
    (hs : s.CanRun) (h : getterOf i = some (base, inverted))
    (hx : s.link.exchange readTconBytes s.draws = (.received [r0, r1], l, n)) :
    exec i s = .next (s.ran l n [.exchange readTconBytes [r0, r1]]
      (.ok (.bool (r1.getLsbD (flagBit s.blk.cfg.potIndex base) != inverted)))) := by
  obtain ⟨f, hexec, hf⟩ := exec_getter h
  rw [hexec, serve_readFlag_received hs readFrame_tcon hx rfl fun t ht => by rw [hf, ht]]

/-- A TCON setter whose READ and WRITE are answered (R106). -/
theorem exec_setter_received {i : Instr} {base : Nat} {v : Bool} {s : State} {r0 r1 : Byte} {rx : List Byte}
    {l m : Link} {n k : Nat} (hs : s.CanRun) (h : setterOf i = some (base, v))
    (hx : s.link.exchange readTconBytes s.draws = (.received [r0, r1], l, n))
    (hw : l.exchange (writeTconBytes (withBit r1 (flagBit s.blk.cfg.potIndex base) v)) n = (.received rx, m, k))
    (hlen : rx.length = 2) :
    exec i s = .next (s.ran m k
      [.exchange readTconBytes [r0, r1],
       .exchange (writeTconBytes (withBit r1 (flagBit s.blk.cfg.potIndex base) v)) rx] (.ok .unit)) := by
  obtain ⟨mask, hexec, hmask⟩ := exec_setter h
  rw [hexec, tconUpdateBit, readFrame_tcon, serve_twoFrames_received hs hx rfl (fun t ht => ?_) hw hlen]
  exact tconUpdateBit_write (hmask _) v r0 r1 (congrArg Cfg.potIndex ht)

/-! ### The bits of a byte with one bit replaced (R33) -/

theorem getLsbD_withBit_same (b : Byte) {j : Nat} (hj : j < 8) (v : Bool) : (withBit b j v).getLsbD j = v := by
  cases v <;> simp [withBit, hj]

/-- A mask of one bit has no other. -/
theorem getLsbD_oneBit_of_ne {j k : Nat} (hk : k ≠ j) : (0x01#8 <<< j).getLsbD k = false := by
  have hlow : j ≤ k → k - j ≠ 0 := by omega
  simp_all [BitVec.getLsbD_one]

theorem getLsbD_withBit_of_ne (b : Byte) {j k : Nat} (hk : k ≠ j) (v : Bool) :
    (withBit b j v).getLsbD k = b.getLsbD k := by
  have hmask := getLsbD_oneBit_of_ne hk
  cases v with
  | true => simp only [withBit, if_true, BitVec.getLsbD_or, hmask, Bool.or_false]
  | false => simpa [withBit, -BitVec.getLsbD_shiftLeft, hmask] using b.lt_of_getLsbD

/-- The four flags of a potentiometer lie in the byte (R31). -/
theorem flagBit_lt (p : PotIndex) {base : Nat} (h : base < 4) : flagBit p base < 8 := by
  cases p <;> simp only [flagBit] <;> omega

theorem setterOf_base_lt {i : Instr} {base : Nat} {v : Bool} (h : setterOf i = some (base, v)) : base < 4 := by
  cases i <;> simp only [setterOf, reduceCtorEq, Option.some.injEq, Prod.mk.injEq] at h <;> omega

/-! ### The reference device and the frames of TCON (R130) -/

/-- READ TCON is answered with the register and changes nothing. -/
theorem respond_readTconBytes (d : RefDevice) : d.respond readTconBytes = some ([0x00#8, d.tcon], d) := rfl

/-- The low byte of a TCON write's data is the byte written (R34). -/
theorem setWidth_tconWireData : ∀ n : Byte, (tconWireData n).setWidth 8 = n := by decide

/-- WRITE TCON replaces that register alone. -/
theorem respond_writeTconBytes (d : RefDevice) (n : Byte) :
    d.respond (writeTconBytes n) = some (writeTconBytes n, withTcon d n) := by
  simp [writeTconBytes_eq, respond_write, RefDevice.onWrite, wiperOfAddr, tconAddr, setWidth_tconWireData, withTcon]

section
variable {s : State} {d : RefDevice}

/-- A TCON setter replaces its one bit in the device's TCON. -/
theorem exec_setter_onDevice {i : Instr} {base : Nat} {v : Bool} (hs : s.CanRun) (hl : s.link = .reference d [])
    (h : setterOf i = some (base, v)) :
    ∃ t, exec i s = .next t ∧
      CompletedOnDevice s t (withTcon d (withBit d.tcon (flagBit s.blk.cfg.potIndex base) v)) .unit :=
  ⟨_, exec_setter_received hs h (exchange_of_link hl (respond_readTconBytes d))
    (exchange_reference _ (respond_writeTconBytes d _)) rfl, completedOnDevice_ran ..⟩

/-- A TCON getter returns its bit of the device's TCON and leaves the device as it was. -/
theorem exec_getter_onDevice {i : Instr} {base : Nat} {inverted : Bool} (hs : s.CanRun)
    (hl : s.link = .reference d []) (h : getterOf i = some (base, inverted)) :
    ∃ t, exec i s = .next t ∧
      CompletedOnDevice s t d (.bool (d.tcon.getLsbD (flagBit s.blk.cfg.potIndex base) != inverted)) :=
  ⟨_, exec_getter_received hs h (exchange_of_link hl (respond_readTconBytes d)), completedOnDevice_ran ..⟩

end

/-! ### The statements -/

/-- Settles O27: the answered WRITE follows the answered READ inside one selection. -/
theorem tconSettersWriteBackOneBit : Obligations.TconSettersWriteBackOneBit :=
  fun _ _ _ _ _ _ _ _ _ _ _ _ hs h hx hw => exec_setter_received hs h hx hw rfl

/-- Settles O28: the raise of the READ leaves the operation before a second frame is built. -/
theorem failedReadSendsNoWrite : Obligations.FailedReadSendsNoWrite := by
  intro i s ⟨base, v⟩ l n hs h hx
  obtain ⟨mask, hexec, -⟩ := exec_setter h
  rw [hexec, tconUpdateBit, readFrame_tcon, serve_twoFrames_firstFailed hs hx]

/-- Settles O29: the raise of the WRITE unwinds the one selection that both frames stand in. -/
theorem failedWriteFollowsItsRead : Obligations.FailedWriteFollowsItsRead := by
  intro i s base v r0 r1 l m n k hs h hx hw
  obtain ⟨mask, hexec, hmask⟩ := exec_setter h
  rw [hexec, tconUpdateBit, readFrame_tcon, serve_twoFrames_secondFailed hs hx rfl (fun t ht => ?_) hw]
  exact tconUpdateBit_write (hmask _) v r0 r1 (congrArg Cfg.potIndex ht)

/-- Settles O31: a getter is a flag read of TCON, and fails as any one-frame operation does. -/
theorem tconGettersReturnTheirBit : Obligations.TconGettersReturnTheirBit :=
  fun _ _ _ _ _ _ hs h => ⟨fun _ _ hx => exec_getter_received hs h hx,
    fun hx => exec_oneFrame_failed hs (oneFrame_of_getterOf _ h) hx⟩

/-- Settles O32: a flag read of STATUS whose mask does not look at the potentiometer. -/
theorem hardwareShutdownIsStatusBitOne : Obligations.HardwareShutdownIsStatusBitOne := by
  intro s l n hs
  refine ⟨fun r0 r1 hx => congrArg Host.Outcome.next ?_, fun hx => exec_oneFrame_failed hs rfl hx⟩
  exact serve_readFlag_received hs readFrame_status hx rfl fun _ _ => testBit_bit1 r1

/-- Settles O46: the setter replaces its one bit of TCON, and the getter of the same role reads that bit back. -/
theorem readModifyWriteIsIsolated : Obligations.ReadModifyWriteIsIsolated := by
  intro s d b hs hl setter getter base v hrole
  have hpair : ∃ inverted, setterOf setter = some (base, v) ∧ getterOf getter = some (base, inverted) ∧
      (v != inverted) = b := by
    rcases hrole with ⟨rfl, rfl, rfl, rfl⟩ | ⟨rfl, rfl, rfl, rfl⟩ | ⟨rfl, rfl, rfl, rfl⟩ | ⟨rfl, rfl, rfl, rfl⟩
    · exact ⟨false, rfl, rfl, by simp⟩
    · exact ⟨false, rfl, rfl, by simp⟩
    · exact ⟨false, rfl, rfl, by simp⟩
    · exact ⟨true, rfl, rfl, by simp⟩
  obtain ⟨inverted, hset, hget, hb⟩ := hpair
  obtain ⟨t, hexec, ht⟩ := exec_setter_onDevice hs hl hset
  obtain ⟨u, hexec', hu⟩ := exec_getter_onDevice (ht.canRun hs) ht.link hget
  have hbit := getLsbD_withBit_same d.tcon (flagBit_lt s.blk.cfg.potIndex (setterOf_base_lt hset)) v
  refine ⟨t, u, hexec, hexec', ?_, _, ht.link, hbit, fun j hj => getLsbD_withBit_of_ne _ hj v⟩
  simp [hu.verdicts, ht.verdicts, ht.blk, withTcon, hbit, hb]

end Sys2Proof.Claims
end

/-! PROOFS of the family spec/60_exceptions.md: what faults an instance, what is refused, how a failed or wrong answer ends
an operation, and what the reference device answers to each frame and keeps after a failure. -/

section
namespace Sys2Proof.Machine

/-! ### The causes of a fault -/

/-- An unbounded counter has room for every count (R11). -/
theorem Cfg.fits_of_unbounded {c : Cfg} (h : c.selWidth = none) (n : Nat) : c.fits n = true := by
  simp [Cfg.fits, h]

/-- With an unbounded counter the inside of an operation faults only by an answer of the wrong length (R125). -/
theorem Fault.FromInside.of_unbounded {f : Fault} {c : Cfg} (h : f.FromInside c) (hw : c.selWidth = none) :
    f = .rxLengthMismatch :=
  h.resolve_right fun hover => hover.2 hw

/-- An accepted `select` of an unbounded counter does not fault (R90). -/
theorem serve_select_faulted {s : State} (hw : s.blk.cfg.selWidth = none) (hr : s.ready = true) :
    (serve .select (fun u => (selectStep u).andThen fun _ w => .ret .unit w) s).blk.faulted = s.blk.faulted := by
  rcases serve_select_cases hr with ⟨-, h⟩ | ⟨hno, -⟩
  · rw [h]
    simp
  · simp [Cfg.fits_of_unbounded hw] at hno

/-! ### Requests that are not admitted -/

/-- A frame asked of an instance that is not ready does not come to the device (R24, log 6). -/
theorem serveFrame_notReady {s : State} {i : Instr} {tx : List Byte} {use : List Byte → State → Exit Result}
    (hr : s.ready = false) : serveFrame i tx use s = .next (s.conclude (.denied .notReady)) := by
  simp [serveFrame, State.reaches, hr, serve_notReady hr]

end Sys2Proof.Machine

namespace Sys2Proof.Claims
open Sys2Proof.Machine

/-- No instruction stops an instance that is not ready. -/
theorem exec_next_of_notReady {s : State} (hr : s.ready = false) (i : Instr) : ∃ t, exec i s = .next t := by
  cases he : encode i with
  | none => exact exec_next_of_encode_none he s
  | some tx =>
    obtain ⟨tx, use, hexec⟩ := exec_transfer (i := i) (by simp [he])
    exact ⟨_, (hexec s).trans (serveFrame_notReady hr)⟩

/-- A bus instruction asked of an instance that is not ready is refused (R126). -/
theorem exec_bus_notReady {i : Instr} {s : State} (hb : i.usesBus = true) (hr : s.ready = false) :
    exec i s = .next (s.conclude (.denied .notReady)) := by
  obtain ⟨t, h⟩ := exec_next_of_notReady hr i
  have hno : s.ready ≠ true := by simp [hr]
  rcases exec_next_cases h with
    ⟨hbus, -⟩ | ⟨-, -, rfl⟩ | ⟨-, hyes, -⟩ | ⟨-, hyes, -⟩ | ⟨-, -, -, hyes, -⟩
  · simp [hb] at hbus
  · exact h
  all_goals exact absurd hyes hno

/-! ### The reference device: its answers and its failures -/

/-- The answer to a READ of a wiper, as numbers. -/
theorem wiperAnswer_eq_ofNat : ∀ v : U9,
    wiperAnswer v = [BitVec.ofNat 8 (v.toNat / 256), BitVec.ofNat 8 (v.toNat % 256)] := by
  decide

/-- READ STATUS is answered with the register and changes nothing. -/
theorem respond_readStatusBytes (d : RefDevice) : d.respond readStatusBytes = some ([0x00#8, d.status], d) := rfl

/-- A drawn value goes to the register at its address and to no other (R124). -/
theorem overwrite_keeps (d : RefDevice) (a : U4) (v : U9) :
    (a ≠ 0x0#4 → (d.overwrite a v).wiper0 = d.wiper0) ∧ (a ≠ 0x1#4 → (d.overwrite a v).wiper1 = d.wiper1) ∧
    (a ≠ 0x4#4 → (d.overwrite a v).tcon = d.tcon) ∧ (a ≠ 0x5#4 → (d.overwrite a v).status = d.status) ∧
    (d.overwrite a v).dmax0 = d.dmax0 ∧ (d.overwrite a v).dmax1 = d.dmax1 := by
  unfold RefDevice.overwrite
  split_ifs with h0 h1 h4 h5
  · exact ⟨(absurd h0 ·), fun _ => rfl, fun _ => rfl, fun _ => rfl, rfl, rfl⟩
  · exact ⟨fun _ => rfl, (absurd h1 ·), fun _ => rfl, fun _ => rfl, rfl, rfl⟩
  · exact ⟨fun _ => rfl, fun _ => rfl, (absurd h4 ·), fun _ => rfl, rfl, rfl⟩
  · exact ⟨fun _ => rfl, fun _ => rfl, fun _ => rfl, (absurd h5 ·), rfl, rfl⟩
  · exact ⟨fun _ => rfl, fun _ => rfl, fun _ => rfl, fun _ => rfl, rfl, rfl⟩

/-! ### The host operations on the reference device -/

section
variable {s : State} {d : RefDevice}

/-- `get_hardware_shutdown_status` returns its bit of the device's STATUS and leaves the device as it was (R116). -/
theorem exec_getHardwareShutdownStatus_onDevice (hs : s.CanRun) (hl : s.link = .reference d []) :
    ∃ t, exec .getHardwareShutdownStatus s = .next t ∧ CompletedOnDevice s t d (.bool d.status[1]) :=
  ⟨_, (hardwareShutdownIsStatusBitOne s _ _ hs).1 _ _ (exchange_of_link hl (respond_readStatusBytes d)),
    completedOnDevice_ran ..⟩

/-- `max_value` does not come to the device (R98). -/
theorem exec_maxValue_onDevice (hs : s.CanRun) (hl : s.link = .reference d []) :
    ∃ t, exec .maxValue s = .next t ∧ CompletedOnDevice s t d (.nat (maxByTable s.blk.cfg)) :=
  ⟨_, maxValueReturnsTheTable s hs.1, rfl, hl, rfl⟩

/-- Every host operation but `select` and `deselect` completes on the reference device, a negative `set` set apart. -/
theorem exec_hostOperation_onDevice {i : Instr} (hs : s.CanRun) (hl : s.link = .reference d [])
    (hi : hostOperation i = true) (hset : ∀ v, i = .set v → 0 ≤ v) (hsel : i ≠ .select) (hdes : i ≠ .deselect) :
    ∃ t d' r, exec i s = .next t ∧ CompletedOnDevice s t d' r := by
  cases i with
  | maxValue => exact (exec_maxValue_onDevice hs hl).imp fun _ h => ⟨_, _, h⟩
  | increment => exact (exec_increment_onDevice hs hl).imp fun _ h => ⟨_, _, h⟩
  | decrement => exact (exec_decrement_onDevice hs hl).imp fun _ h => ⟨_, _, h⟩
  | set v =>
    obtain ⟨value, rfl⟩ := Int.eq_ofNat_of_zero_le (hset v rfl)
    exact (exec_set_onDevice hs hl value).imp fun _ h => ⟨_, _, h⟩
  | get => exact (exec_get_onDevice hs hl).imp fun _ h => ⟨_, _, h⟩
  | setTerminalAStatus | setTerminalBStatus | setWiperStatus | setShutdownStatus =>
    exact (exec_setter_onDevice hs hl rfl).imp fun _ h => ⟨_, _, h⟩
  | getTerminalAStatus | getTerminalBStatus | getWiperStatus | getShutdownStatus =>
    exact (exec_getter_onDevice hs hl rfl).imp fun _ h => ⟨_, _, h⟩
  | getHardwareShutdownStatus =>
    exact (exec_getHardwareShutdownStatus_onDevice hs hl).imp fun _ h => ⟨_, _, h⟩
  | select => exact absurd rfl hsel
  | deselect => exact absurd rfl hdes
  | _ => simp [hostOperation] at hi

end

/-! ### The statements -/

/-- Settles O11: of the kinds of next state, an unmatched `deselect` and a bus operation that broke are faulted, and the
inside of an operation overflows no unbounded counter. -/
theorem faultsComeOnlyFromTwoCauses : Obligations.FaultsComeOnlyFromTwoCauses := by
  intro i s t hw hf h hft
  rcases exec_next_cases h with
    ⟨-, v, rfl, -⟩ | ⟨-, -, rfl⟩ | ⟨-, hr, rfl⟩ | ⟨rfl, hr, rfl⟩ | ⟨-, -, -, -, hc | hb⟩
  · simp [hf] at hft
  · simp [hf] at hft
  · simp [serve_select_faulted hw hr, hf] at hft
  · rcases serve_deselect_cases hr with ⟨-, hd⟩ | ⟨h0, hd⟩
    · simp [hd, hf] at hft
    · exact .inl ⟨rfl, h0, by simp [hd]⟩
  · simp [hc.faulted, hf] at hft
  · obtain ⟨f, hinside, hv⟩ := hb.verdict
    obtain rfl := hinside.of_unbounded hw
    exact .inr hv

/-- Settles O15: nothing stops a request to an instance that is not ready, and its one kind of next state is the
refusal. -/
theorem notReadyRequestsChangeNothing : Obligations.NotReadyRequestsChangeNothing := by
  rintro i s (hb | rfl) hr
  · exact exec_bus_notReady hb hr
  · exact congrArg Host.Outcome.next (serve_notReady hr)

/-- Settles O25: the raise of the transfer unwinds through both guards. -/
theorem failedExchangeEndsOneFrameOperations : Obligations.FailedExchangeEndsOneFrameOperations :=
  fun _ _ _ _ _ hs h hx => exec_oneFrame_failed hs h hx

/-- Settles O40: room for two selections is room for the one a frame row needs. -/
theorem frameRowsFailAndFault : Obligations.FrameRowsFailAndFault :=
  fun i s tx l n hs hw he ha => (frameRowsRunWithRoomForOneSelection i s tx l n hs.canSelect hw he ha).2

/-- Settles O42: frame by frame, with a written value of 0..256 as the nine bits it fits. -/
theorem referenceDeviceAnswers : Obligations.ReferenceDeviceAnswers := by
  intro d p
  refine ⟨fun v hv => ?_, respond_incrBytes d p, respond_decrBytes d p, ?_, respond_writeTconBytes d,
    respond_readTconBytes d, respond_readStatusBytes d⟩
  · have hfits : (BitVec.ofNat 9 v).toNat = v := by
      rw [BitVec.toNat_ofNat]
      omega
    have h := respond_setBytes d p (v := BitVec.ofNat 9 v) (by omega)
    rwa [hfits] at h
  · rw [respond_getBytes, wiperAnswer_eq_ofNat]

/-- Settles O43: the failure draws a value for the register at the frame's address. -/
theorem failureDisturbsOnlyTheAddressedRegister : Obligations.FailureDisturbsOnlyTheAddressedRegister :=
  fun d _ c _ n => ⟨_, rfl, overwrite_keeps d (ctrlAddress c) (Config.drawnRegister n)⟩

/-- Settles O44: `select` and `deselect` have their room and their selection, and the others complete on the device. -/
theorem hostOperationsCompleteOnTheReferenceDevice : Obligations.HostOperationsCompleteOnTheReferenceDevice := by
  intro i s d hs hl hi hset hheld
  by_cases hsel : i = .select
  · subst hsel
    exact ⟨_, .unit, selectCountsUp s hs.1 hs.fits.1, rfl, fun hne => absurd rfl hne⟩
  · by_cases hdes : i = .deselect
    · subst hdes
      exact ⟨_, .unit, deselectCountsDown s hs.1 (hheld rfl), rfl, fun _ hne => absurd rfl hne⟩
    · obtain ⟨t, d', r, hexec, ht⟩ := exec_hostOperation_onDevice hs hl hi hset hsel hdes
      exact ⟨t, r, hexec, ht.verdicts, fun _ _ => ht.blk⟩

/-- Settles O16: the sign is looked at before anything else. -/
theorem negativeSetIsRefused : Obligations.NegativeSetIsRefused := fun _ _ hv => if_pos hv

end Sys2Proof.Claims
end

/-! PROOFS of the family spec/70_reset_and_hazards.md: what construction leaves, and that an exchange does not come to a
line the neighbour has released. -/

section
namespace Sys2Proof.Machine

/-- The line is lost to an exchange its instance comes to inside a selection it holds, where the line stands released. -/
theorem lineLost_of_released {s : State} {i : Instr} (hx : i.exchanges = true) (hr : s.ready = true)
    (hf : s.blk.cfg.fits (s.blk.selCount + selectsBeforeExchange i) = true) (hcs : s.blk.csAsserted = true)
    (hline : s.csLine = false) : s.lineLost i = true := by
  simp [State.lineLost, State.reaches, hx, hr, hf, hcs, hline]

/-- On a lost line the instance stops by name. -/
theorem runHere_eq_refused {s : State} {i : Instr} (h : s.lineLost i = true) :
    runHere i s = .refused .lineReleased := by
  simp [runHere, h]

/-- The second instance stops as the first would, seen with the two exchanged. -/
theorem runAt_second_eq_refused {s : State} {b : Block} {i : Instr} (h2 : s.second = some b)
    (h : s.swap.lineLost i = true) : runAt .second i s = .refused .lineReleased := by
  simp [runAt, h2, runHere_eq_refused h, swapBack]

end Sys2Proof.Machine

namespace Sys2Proof.Claims
open Sys2Proof.Machine

/-- Settles O55: the request's instance has lost its line; the second one's is seen with the two exchanged. -/
theorem exchangeOnAReleasedLineIsRefused : Obligations.ExchangeOnAReleasedLineIsRefused := by
  intro s b i rest h2 hx hline
  rw [← selectsBeforeExchange_eq]
  refine ⟨fun hin hr hf hcs => ?_, fun hin hp hfa hf hcs => ?_⟩
  · have hlost : (s.setInbox rest).lineLost i = true := lineLost_of_released hx hr hf hcs hline
    exact (step_request hin rfl).trans (runHere_eq_refused hlost)
  · have hswap : (s.setInbox rest).swap = { s with blk := b, second := some s.blk, inbox := rest } :=
      State.swap_of_pair h2
    have hlost : (s.setInbox rest).swap.lineLost i = true := by
      rw [hswap]
      exact lineLost_of_released hx ((State.ready_iff _).2 ⟨hp, hfa⟩) hf hcs hline
    exact (step_request hin rfl).trans (runAt_second_eq_refused h2 hlost)

/-- Settles O1: each field of a constructed instance is the one R139 gives it. -/
theorem constructionLeavesTheResetState : Obligations.ConstructionLeavesTheResetState :=
  fun _ => ⟨rfl, rfl, rfl, rfl, rfl, rfl, rfl⟩

end Sys2Proof.Claims
end
